-- ==== Sys2Proof/Word.lean ====
section
/-! DEFINITION. Word.lean: the bit-vector types of the engine's registers, addresses and instruction fields
(spec 00_scope R8, R11, R12; 10_state R21; 30_encoding R82). -/

namespace Sys2Proof

/-- One byte: a general register, a timer, a memory byte, an immediate kk. -/
abbrev Byte := BitVec 8

/-- Sixteen bits: pc, I, a stack entry, an instruction word. -/
abbrev Word := BitVec 16

/-- An address that reaches the memory array: 12 bits (R62, R14). -/
abbrev Addr := BitVec 12

/-- A register index x or y, four bits, 0..15 (R82, R84): no encoding names an index out of range. -/
abbrev Reg := BitVec 4

/-- Index of VF, the flag register (R23). -/
abbrev vf : Reg := 0xF#4

end Sys2Proof
end

