-- ==== Sys2Proof/Syntax.lean ====
section
/-! DEFINITION. Syntax.lean: the 34 instructions of spec 30_encoding R95, one constructor per row, in the table's order.
Each docstring names the row's pattern and the rule that gives its meaning. -/

namespace Sys2Proof

/-- The instructions. x and y are register indices, kk an immediate byte, nnn a 12-bit address, n a row count (R82). -/
inductive Instr where
  /-- 00E0, CLS (R196). -/
  | cls
  /-- 00EE, RET (R131). -/
  | ret
  /-- 1nnn, JP nnn (R132). -/
  | jp (nnn : BitVec 12)
  /-- 2nnn, CALL nnn (R133). -/
  | call (nnn : BitVec 12)
  /-- 3xkk, SE Vx, kk (R141). -/
  | seImm (x : Reg) (kk : Byte)
  /-- 4xkk, SNE Vx, kk (R142). -/
  | sneImm (x : Reg) (kk : Byte)
  /-- 5xy0, SE Vx, Vy (R143). -/
  | seReg (x y : Reg)
  /-- 6xkk, LD Vx, kk (R152). -/
  | ldImm (x : Reg) (kk : Byte)
  /-- 7xkk, ADD Vx, kk (R153). -/
  | addImm (x : Reg) (kk : Byte)
  /-- 8xy0, LD Vx, Vy (R154). -/
  | ldReg (x y : Reg)
  /-- 8xy1, OR Vx, Vy (R155). -/
  | orReg (x y : Reg)
  /-- 8xy2, AND Vx, Vy (R156). -/
  | andReg (x y : Reg)
  /-- 8xy3, XOR Vx, Vy (R157). -/
  | xorReg (x y : Reg)
  /-- 8xy4, ADD Vx, Vy (R158). -/
  | addReg (x y : Reg)
  /-- 8xy5, SUB Vx, Vy (R159). -/
  | subReg (x y : Reg)
  /-- 8xy6, SHR Vx, Vy (R160); y is decoded and not used. -/
  | shr (x y : Reg)
  /-- 8xy7, SUBN Vx, Vy (R161). -/
  | subn (x y : Reg)
  /-- 8xyE, SHL Vx, Vy (R162); y is decoded and not used. -/
  | shl (x y : Reg)
  /-- 9xy0, SNE Vx, Vy (R144). -/
  | sneReg (x y : Reg)
  /-- Annn, LD I, nnn (R181). -/
  | ldI (nnn : BitVec 12)
  /-- Bnnn, JP V0, nnn (R134). -/
  | jpV0 (nnn : BitVec 12)
  /-- Cxkk, RND Vx, kk (R165). -/
  | rnd (x : Reg) (kk : Byte)
  /-- Dxyn, DRW Vx, Vy, n (R197). -/
  | drw (x y : Reg) (n : BitVec 4)
  /-- Ex9E, SKP Vx (R145). -/
  | skp (x : Reg)
  /-- ExA1, SKNP Vx (R146). -/
  | sknp (x : Reg)
  /-- Fx07, LD Vx, DT (R211). -/
  | ldVxDt (x : Reg)
  /-- Fx0A, LD Vx, K (R212). -/
  | ldVxK (x : Reg)
  /-- Fx15, LD DT, Vx (R213). -/
  | ldDtVx (x : Reg)
  /-- Fx18, LD ST, Vx (R214). -/
  | ldStVx (x : Reg)
  /-- Fx1E, ADD I, Vx (R182). -/
  | addIVx (x : Reg)
  /-- Fx29, LD F, Vx (R183). -/
  | ldFVx (x : Reg)
  /-- Fx33, LD B, Vx (R184). -/
  | ldBVx (x : Reg)
  /-- Fx55, LD [I], Vx (R185). -/
  | storeRegs (x : Reg)
  /-- Fx65, LD Vx, [I] (R186). -/
  | loadRegs (x : Reg)
  deriving DecidableEq, Repr

end Sys2Proof
end

