-- ==== Sys2Proof/Config.lean ====
section
/-! DEFINITION. Config.lean: what an implementation of the engine fixes (the two parameters of spec 00_scope R8)
and the one free value of the spec (the RND draw, 10_state R54, 43_alu R165). -/

namespace Sys2Proof

/-- The parameters of one engine (R8). The bound of FONT_BASE, 0x000 <= FONT_BASE <= 0x1B0, stands in its type, and
FONT_ROM has 80 bytes by its type: a configuration outside them cannot be built (93 U10 "refused"; see
`RawConfig.check`). Log entry 1. -/
structure Config where
  /-- FONT_BASE (R8, R33): the address of the first font byte. -/
  fontBase : Fin 0x1B1
  /-- FONT_ROM (R8, R33): 16 glyphs of 5 bytes, glyph 0 first, top row first. -/
  fontRom : Vector Byte 80
  deriving DecidableEq, Repr

/-- The RND input (R54): the sample that the n-th Cxkk execution takes. FREE VALUE, log entry 2: it has no body, so
nothing can prove a value of it; R9 "A model treats each sample as an unconstrained draw in 0..255". -/
opaque Config.rndByte : Nat → Byte

end Sys2Proof
end

