-- ==== Sys2Proof/WellFormed.lean ====
section
/-! DEFINITION. WellFormed.lean: the checks on terms given from outside: an instruction's fields against the widths of
spec 30_encoding R82, a configuration against the constraint of 00_scope R8, a program image against PROG_MAX (R8, R52). -/

namespace Sys2Proof

/-- An operand field as plain numbers: its value and the width R82 gives it. -/
structure Field where
  value : Nat
  width : Nat
  deriving DecidableEq, Repr

/-- The value fits the width. -/
def Field.fits (f : Field) : Bool := decide (f.value < 2 ^ f.width)

/-- The operand fields of an instruction, from the most significant down, with the widths of R82. -/
def Instr.fields : Instr → List Field
  | .cls => []
  | .ret => []
  | .jp nnn => [⟨nnn.toNat, 12⟩]
  | .call nnn => [⟨nnn.toNat, 12⟩]
  | .seImm x kk => [⟨x.toNat, 4⟩, ⟨kk.toNat, 8⟩]
  | .sneImm x kk => [⟨x.toNat, 4⟩, ⟨kk.toNat, 8⟩]
  | .seReg x y => [⟨x.toNat, 4⟩, ⟨y.toNat, 4⟩]
  | .ldImm x kk => [⟨x.toNat, 4⟩, ⟨kk.toNat, 8⟩]
  | .addImm x kk => [⟨x.toNat, 4⟩, ⟨kk.toNat, 8⟩]
  | .ldReg x y => [⟨x.toNat, 4⟩, ⟨y.toNat, 4⟩]
  | .orReg x y => [⟨x.toNat, 4⟩, ⟨y.toNat, 4⟩]
  | .andReg x y => [⟨x.toNat, 4⟩, ⟨y.toNat, 4⟩]
  | .xorReg x y => [⟨x.toNat, 4⟩, ⟨y.toNat, 4⟩]
  | .addReg x y => [⟨x.toNat, 4⟩, ⟨y.toNat, 4⟩]
  | .subReg x y => [⟨x.toNat, 4⟩, ⟨y.toNat, 4⟩]
  | .shr x y => [⟨x.toNat, 4⟩, ⟨y.toNat, 4⟩]
  | .subn x y => [⟨x.toNat, 4⟩, ⟨y.toNat, 4⟩]
  | .shl x y => [⟨x.toNat, 4⟩, ⟨y.toNat, 4⟩]
  | .sneReg x y => [⟨x.toNat, 4⟩, ⟨y.toNat, 4⟩]
  | .ldI nnn => [⟨nnn.toNat, 12⟩]
  | .jpV0 nnn => [⟨nnn.toNat, 12⟩]
  | .rnd x kk => [⟨x.toNat, 4⟩, ⟨kk.toNat, 8⟩]
  | .drw x y n => [⟨x.toNat, 4⟩, ⟨y.toNat, 4⟩, ⟨n.toNat, 4⟩]
  | .skp x => [⟨x.toNat, 4⟩]
  | .sknp x => [⟨x.toNat, 4⟩]
  | .ldVxDt x => [⟨x.toNat, 4⟩]
  | .ldVxK x => [⟨x.toNat, 4⟩]
  | .ldDtVx x => [⟨x.toNat, 4⟩]
  | .ldStVx x => [⟨x.toNat, 4⟩]
  | .addIVx x => [⟨x.toNat, 4⟩]
  | .ldFVx x => [⟨x.toNat, 4⟩]
  | .ldBVx x => [⟨x.toNat, 4⟩]
  | .storeRegs x => [⟨x.toNat, 4⟩]
  | .loadRegs x => [⟨x.toNat, 4⟩]

/-- Every operand field fits its width. The field types already force it (R84 "No encoding names an index out of
range"), so every term of Instr passes: Sys2Proof.Laws.FieldsFit. -/
def Instr.wellFormed (i : Instr) : Bool := i.fields.all Field.fits

/-- A configuration as plain numbers, before it is checked. -/
structure RawConfig where
  fontBase : Nat
  fontRom : List Byte
  deriving DecidableEq, Repr

/-- R8: 0x000 <= FONT_BASE <= 0x1B0, and FONT_ROM has 80 bytes. -/
def RawConfig.wellFormed (c : RawConfig) : Bool :=
  decide (c.fontBase ≤ 0x1B0) && decide (c.fontRom.length = 80)

/-- The checked configuration; none where the constraint of R8 does not hold (93 U10 "refused"). -/
def RawConfig.check (c : RawConfig) : Option Config :=
  if h : c.fontBase ≤ 0x1B0 ∧ c.fontRom.length = 80 then
    some { fontBase := ⟨c.fontBase, by omega⟩, fontRom := ⟨⟨c.fontRom⟩, h.2⟩ }
  else none

/-- PROG_MAX (R8): a program image has at most 3584 bytes. -/
def imageFits (image : List Byte) : Bool := decide (image.length ≤ 3584)

end Sys2Proof
end

