-- ==== Sys2Proof/Decode.lean ====
section
/-! DEFINITION. Decode.lean: the decoder of spec 30_encoding R85 to R94 and the encoder of R83 and R95. -/

namespace Sys2Proof

/-- Why a word is no instruction: the group whose other words are unknown (R87 to R90, R93), or too few bytes. -/
inductive UnknownWord where
  /-- 0x0000..0x0FFF but 00E0 and 00EE (R87); 0nnn is no instruction (90 C1). -/
  | group0
  /-- 5xyN, N not 0 (R90). -/
  | group5
  /-- 8xyN, N in 8..D, F (R88). -/
  | group8
  /-- 9xyN, N not 0 (R90). -/
  | group9
  /-- Exkk, kk not 9E, A1 (R89). -/
  | groupE
  /-- Fxkk, kk none of the nine of R89. -/
  | groupF
  /-- Fewer than two bytes: no instruction is shorter (R81, R94). -/
  | truncated
  deriving DecidableEq, Repr

/-- What the decoder answers: an instruction, or UNKNOWN with its reason (R86, R115). -/
inductive Decoded where
  | inst (i : Instr)
  | unknown (why : UnknownWord)
  deriving DecidableEq, Repr

/-- g = op[15:12] (R82). -/
def fieldG (op : Word) : BitVec 4 := op.extractLsb' 12 4
/-- x = op[11:8] (R82). -/
def fieldX (op : Word) : Reg := op.extractLsb' 8 4
/-- y = op[7:4] (R82). -/
def fieldY (op : Word) : Reg := op.extractLsb' 4 4
/-- n = op[3:0] (R82). -/
def fieldN (op : Word) : BitVec 4 := op.extractLsb' 0 4
/-- kk = op[7:0] (R82). -/
def fieldKK (op : Word) : Byte := op.extractLsb' 0 8
/-- nnn = op[11:0] (R82). -/
def fieldNNN (op : Word) : BitVec 12 := op.extractLsb' 0 12

/-- Group 0 (R87). -/
def decodeGroup0 (op : Word) : Decoded :=
  if op = 0x00E0#16 then .inst .cls
  else if op = 0x00EE#16 then .inst .ret
  else .unknown .group0

/-- Group 8, by the low nibble (R88). -/
def decodeGroup8 (x y : Reg) (n : BitVec 4) : Decoded :=
  if n = 0x0#4 then .inst (.ldReg x y)
  else if n = 0x1#4 then .inst (.orReg x y)
  else if n = 0x2#4 then .inst (.andReg x y)
  else if n = 0x3#4 then .inst (.xorReg x y)
  else if n = 0x4#4 then .inst (.addReg x y)
  else if n = 0x5#4 then .inst (.subReg x y)
  else if n = 0x6#4 then .inst (.shr x y)
  else if n = 0x7#4 then .inst (.subn x y)
  else if n = 0xE#4 then .inst (.shl x y)
  else .unknown .group8

/-- Group E, by the low byte (R89). -/
def decodeGroupE (x : Reg) (kk : Byte) : Decoded :=
  if kk = 0x9E#8 then .inst (.skp x)
  else if kk = 0xA1#8 then .inst (.sknp x)
  else .unknown .groupE

/-- Group F, by the low byte (R89). -/
def decodeGroupF (x : Reg) (kk : Byte) : Decoded :=
  if kk = 0x07#8 then .inst (.ldVxDt x)
  else if kk = 0x0A#8 then .inst (.ldVxK x)
  else if kk = 0x15#8 then .inst (.ldDtVx x)
  else if kk = 0x18#8 then .inst (.ldStVx x)
  else if kk = 0x1E#8 then .inst (.addIVx x)
  else if kk = 0x29#8 then .inst (.ldFVx x)
  else if kk = 0x33#8 then .inst (.ldBVx x)
  else if kk = 0x55#8 then .inst (.storeRegs x)
  else if kk = 0x65#8 then .inst (.loadRegs x)
  else .unknown .groupF

/-- The decoder (R92): total on the 65536 words, exact matching of every fixed digit (R86, 90 C2). -/
def decode (op : Word) : Decoded :=
  if fieldG op = 0x0#4 then decodeGroup0 op
  else if fieldG op = 0x1#4 then .inst (.jp (fieldNNN op))
  else if fieldG op = 0x2#4 then .inst (.call (fieldNNN op))
  else if fieldG op = 0x3#4 then .inst (.seImm (fieldX op) (fieldKK op))
  else if fieldG op = 0x4#4 then .inst (.sneImm (fieldX op) (fieldKK op))
  else if fieldG op = 0x5#4 then
    if fieldN op = 0x0#4 then .inst (.seReg (fieldX op) (fieldY op)) else .unknown .group5
  else if fieldG op = 0x6#4 then .inst (.ldImm (fieldX op) (fieldKK op))
  else if fieldG op = 0x7#4 then .inst (.addImm (fieldX op) (fieldKK op))
  else if fieldG op = 0x8#4 then decodeGroup8 (fieldX op) (fieldY op) (fieldN op)
  else if fieldG op = 0x9#4 then
    if fieldN op = 0x0#4 then .inst (.sneReg (fieldX op) (fieldY op)) else .unknown .group9
  else if fieldG op = 0xA#4 then .inst (.ldI (fieldNNN op))
  else if fieldG op = 0xB#4 then .inst (.jpV0 (fieldNNN op))
  else if fieldG op = 0xC#4 then .inst (.rnd (fieldX op) (fieldKK op))
  else if fieldG op = 0xD#4 then .inst (.drw (fieldX op) (fieldY op) (fieldN op))
  else if fieldG op = 0xE#4 then decodeGroupE (fieldX op) (fieldKK op)
  else decodeGroupF (fieldX op) (fieldKK op)

/-- Two bytes as the word they hold in memory: the byte at the lower address is the high byte (R64, R81). -/
def wordOfBytes (hi lo : Byte) : Word := hi ++ lo

/-- The high byte of a word: the one at the lower address (R64). -/
def highByte (w : Word) : Byte := w.extractLsb' 8 8
/-- The low byte of a word: the one at the higher address (R64). -/
def lowByte (w : Word) : Byte := w.extractLsb' 0 8

/-- The decoder on a stream of bytes, with the rest of the stream: it consumes exactly two bytes (R94). -/
def decodeBytes : List Byte → Decoded × List Byte
  | hi :: lo :: rest => (decode (wordOfBytes hi lo), rest)
  | short => (.unknown .truncated, short)

/-- The word of an instruction, field by field from the formats of R83 and the table R95. -/
def encode : Instr → Word
  | .cls => 0x00E0#16
  | .ret => 0x00EE#16
  | .jp nnn => 0x1#4 ++ nnn
  | .call nnn => 0x2#4 ++ nnn
  | .seImm x kk => 0x3#4 ++ x ++ kk
  | .sneImm x kk => 0x4#4 ++ x ++ kk
  | .seReg x y => 0x5#4 ++ x ++ y ++ 0x0#4
  | .ldImm x kk => 0x6#4 ++ x ++ kk
  | .addImm x kk => 0x7#4 ++ x ++ kk
  | .ldReg x y => 0x8#4 ++ x ++ y ++ 0x0#4
  | .orReg x y => 0x8#4 ++ x ++ y ++ 0x1#4
  | .andReg x y => 0x8#4 ++ x ++ y ++ 0x2#4
  | .xorReg x y => 0x8#4 ++ x ++ y ++ 0x3#4
  | .addReg x y => 0x8#4 ++ x ++ y ++ 0x4#4
  | .subReg x y => 0x8#4 ++ x ++ y ++ 0x5#4
  | .shr x y => 0x8#4 ++ x ++ y ++ 0x6#4
  | .subn x y => 0x8#4 ++ x ++ y ++ 0x7#4
  | .shl x y => 0x8#4 ++ x ++ y ++ 0xE#4
  | .sneReg x y => 0x9#4 ++ x ++ y ++ 0x0#4
  | .ldI nnn => 0xA#4 ++ nnn
  | .jpV0 nnn => 0xB#4 ++ nnn
  | .rnd x kk => 0xC#4 ++ x ++ kk
  | .drw x y n => 0xD#4 ++ x ++ y ++ n
  | .skp x => 0xE#4 ++ x ++ 0x9E#8
  | .sknp x => 0xE#4 ++ x ++ 0xA1#8
  | .ldVxDt x => 0xF#4 ++ x ++ 0x07#8
  | .ldVxK x => 0xF#4 ++ x ++ 0x0A#8
  | .ldDtVx x => 0xF#4 ++ x ++ 0x15#8
  | .ldStVx x => 0xF#4 ++ x ++ 0x18#8
  | .addIVx x => 0xF#4 ++ x ++ 0x1E#8
  | .ldFVx x => 0xF#4 ++ x ++ 0x29#8
  | .ldBVx x => 0xF#4 ++ x ++ 0x33#8
  | .storeRegs x => 0xF#4 ++ x ++ 0x55#8
  | .loadRegs x => 0xF#4 ++ x ++ 0x65#8

/-- The two bytes of an instruction as memory holds them, high byte first (R81). -/
def encodeBytes (i : Instr) : List Byte := [highByte (encode i), lowByte (encode i)]

/-- A row of the opcode table R95: a word w is the row's instruction when w AND mask = value. -/
structure OpcodeRow where
  value : Word
  mask : Word
  deriving DecidableEq, Repr

/-- The row's fixed digits stand in the word (R86, R95). -/
def OpcodeRow.fixes (r : OpcodeRow) (w : Word) : Bool := decide (w &&& r.mask = r.value)

/-- The row of R95 that an instruction belongs to, "match" and "mask" as the table has them. -/
def Instr.row : Instr → OpcodeRow
  | .cls => ⟨0x00E0#16, 0xFFFF#16⟩
  | .ret => ⟨0x00EE#16, 0xFFFF#16⟩
  | .jp _ => ⟨0x1000#16, 0xF000#16⟩
  | .call _ => ⟨0x2000#16, 0xF000#16⟩
  | .seImm _ _ => ⟨0x3000#16, 0xF000#16⟩
  | .sneImm _ _ => ⟨0x4000#16, 0xF000#16⟩
  | .seReg _ _ => ⟨0x5000#16, 0xF00F#16⟩
  | .ldImm _ _ => ⟨0x6000#16, 0xF000#16⟩
  | .addImm _ _ => ⟨0x7000#16, 0xF000#16⟩
  | .ldReg _ _ => ⟨0x8000#16, 0xF00F#16⟩
  | .orReg _ _ => ⟨0x8001#16, 0xF00F#16⟩
  | .andReg _ _ => ⟨0x8002#16, 0xF00F#16⟩
  | .xorReg _ _ => ⟨0x8003#16, 0xF00F#16⟩
  | .addReg _ _ => ⟨0x8004#16, 0xF00F#16⟩
  | .subReg _ _ => ⟨0x8005#16, 0xF00F#16⟩
  | .shr _ _ => ⟨0x8006#16, 0xF00F#16⟩
  | .subn _ _ => ⟨0x8007#16, 0xF00F#16⟩
  | .shl _ _ => ⟨0x800E#16, 0xF00F#16⟩
  | .sneReg _ _ => ⟨0x9000#16, 0xF00F#16⟩
  | .ldI _ => ⟨0xA000#16, 0xF000#16⟩
  | .jpV0 _ => ⟨0xB000#16, 0xF000#16⟩
  | .rnd _ _ => ⟨0xC000#16, 0xF000#16⟩
  | .drw _ _ _ => ⟨0xD000#16, 0xF000#16⟩
  | .skp _ => ⟨0xE09E#16, 0xF0FF#16⟩
  | .sknp _ => ⟨0xE0A1#16, 0xF0FF#16⟩
  | .ldVxDt _ => ⟨0xF007#16, 0xF0FF#16⟩
  | .ldVxK _ => ⟨0xF00A#16, 0xF0FF#16⟩
  | .ldDtVx _ => ⟨0xF015#16, 0xF0FF#16⟩
  | .ldStVx _ => ⟨0xF018#16, 0xF0FF#16⟩
  | .addIVx _ => ⟨0xF01E#16, 0xF0FF#16⟩
  | .ldFVx _ => ⟨0xF029#16, 0xF0FF#16⟩
  | .ldBVx _ => ⟨0xF033#16, 0xF0FF#16⟩
  | .storeRegs _ => ⟨0xF055#16, 0xF0FF#16⟩
  | .loadRegs _ => ⟨0xF065#16, 0xF0FF#16⟩

/-- One instruction per row of R95, in the table's order, every operand 0. -/
def rowSamples : List Instr :=
  [.cls, .ret, .jp 0, .call 0, .seImm 0 0, .sneImm 0 0, .seReg 0 0, .ldImm 0 0, .addImm 0 0] ++
  [.ldReg 0 0, .orReg 0 0, .andReg 0 0, .xorReg 0 0, .addReg 0 0, .subReg 0 0, .shr 0 0, .subn 0 0, .shl 0 0] ++
  [.sneReg 0 0, .ldI 0, .jpV0 0, .rnd 0 0, .drw 0 0 0, .skp 0, .sknp 0] ++
  [.ldVxDt 0, .ldVxK 0, .ldDtVx 0, .ldStVx 0, .addIVx 0, .ldFVx 0, .ldBVx 0, .storeRegs 0, .loadRegs 0]

/-- The opcode table R95: its 34 rows. -/
def opcodeRows : List OpcodeRow := rowSamples.map Instr.row

/-- The instruction the decoder reads from the word w of an opcode-table row (bit 0 the least significant): the word
laid out as two bytes, high byte first, and given to `decodeBytes`. Every row of the table has 16 bits; bits above
nbits are 0. -/
def decodeTableWord (nbits w : Nat) : Option Instr :=
  let word : Word := BitVec.ofNat 16 (w % 2 ^ nbits)
  match (decodeBytes [highByte word, lowByte word]).1 with
  | .inst i => some i
  | .unknown _ => none

end Sys2Proof
end

