-- ==== Sys2Proof/Machine/Parameters.lean ====
section
/-! DEFINITION. Machine/Parameters.lean: the default values the spec gives the two parameters (00_scope R8, 10_state R33).
A step reads the parameters from State.config, never from here: these are the values State.reset takes. -/

namespace Sys2Proof.Machine

/-- The default glyphs 0 to 7 (R33). UNVERIFIED against the repository: 91 "Font glyph bytes", log entry 1. -/
def glyphsLow : List Byte :=
  [0xF0, 0x90, 0x90, 0x90, 0xF0] ++ [0x20, 0x60, 0x20, 0x20, 0x70] ++
  [0xF0, 0x10, 0xF0, 0x80, 0xF0] ++ [0xF0, 0x10, 0xF0, 0x10, 0xF0] ++
  [0x90, 0x90, 0xF0, 0x10, 0x10] ++ [0xF0, 0x80, 0xF0, 0x10, 0xF0] ++
  [0xF0, 0x80, 0xF0, 0x90, 0xF0] ++ [0xF0, 0x10, 0x20, 0x40, 0x40]

/-- The default glyphs 8 to F (R33). UNVERIFIED against the repository: log entry 1. -/
def glyphsHigh : List Byte :=
  [0xF0, 0x90, 0xF0, 0x90, 0xF0] ++ [0xF0, 0x90, 0xF0, 0x10, 0xF0] ++
  [0xF0, 0x90, 0xF0, 0x90, 0x90] ++ [0xE0, 0x90, 0xE0, 0x90, 0xE0] ++
  [0xF0, 0x80, 0x80, 0x80, 0xF0] ++ [0xE0, 0x90, 0x90, 0x90, 0xE0] ++
  [0xF0, 0x80, 0xF0, 0x80, 0xF0] ++ [0xF0, 0x80, 0xF0, 0x80, 0x80]

/-- The default configuration: FONT_BASE 0x050 and the font of R33 (R8). -/
def defaultConfig : Config where
  fontBase := 0x050
  fontRom := ⟨⟨glyphsLow ++ glyphsHigh⟩, rfl⟩

end Sys2Proof.Machine
end

