-- ==== Sys2Proof/Machine/State.lean ====
section
/-! DEFINITION. Machine/State.lean: every piece of state of spec 10_state R21, the two fields of the model's own
(config, draws), the fatal causes, and the state after RESET (10_state R46, 70_reset R261). -/

namespace Sys2Proof.Machine

/-- The memory contents as the cells that differ from the reset contents, addresses strictly rising
(`Memory.wf`, `Memory.unlisted` in Machine/Memory.lean). -/
abbrev Memory := List Host.Cell

/-- The framebuffer (R34): 32 rows of 64 pixels, row first, true is lit. -/
abbrev Video := Vector (Vector Bool 64) 32

/-- The fatal conditions (60_exceptions R222). -/
inductive Cause where
  /-- Fetch at an odd pc (R113). -/
  | fetchMisaligned
  /-- Fetch at a pc above 0xFFE (R113). -/
  | fetchRange
  /-- 2nnn at sp = 16 (R133). -/
  | stackOverflow
  /-- 00EE at sp = 0 (R131). -/
  | stackUnderflow
  /-- Ex9E or ExA1 with V[x] > 0xF (R145, R146). -/
  | keyIndex
  deriving DecidableEq, Repr

/-- The reasons a step could stop with a fault. There is none: a fatal condition is a next state whose entry the spec
describes (R226), a halted CYCLE changes nothing (R119), an unknown word is a reported no-op (R116), and no memory
access can fault (R70). -/
inductive Fault where
  deriving DecidableEq, Repr

/-- The reasons a step could have no meaning. -/
inductive Refusal where
  /-- Raised only by an arm of exec whose instruction has no meaning yet: no arm does. Safe: the model stops. -/
  | notModelled (mnemonic : String)
  deriving DecidableEq, Repr

/-- The state of one engine (R21), with two fields of the model's own at the end. -/
structure State where
  /-- V[0..15] (R22); V[15] is VF (R23). -/
  v : Vector Byte 16
  /-- I (R27). -/
  i : Word
  /-- pc (R25). -/
  pc : Word
  /-- sp, the next free slot, 0..16 (R29); log entry 3. -/
  sp : Fin 17
  /-- stack[0..15] (R28). -/
  stack : Vector Word 16
  /-- DT (R30). -/
  dt : Byte
  /-- ST (R31). -/
  st : Byte
  /-- mem (R32), relative to the reset contents. -/
  mem : Memory
  /-- video (R34). -/
  video : Video
  /-- KEYS (R35), true is pressed. -/
  keys : Vector Bool 16
  /-- opcode, the current-instruction latch (R36). -/
  opcode : Word
  /-- STATUS (R40): bit 0 HALT, 3:1 CAUSE, 4 UNK_SEEN, 5 LOAD_ERR, 7:6 hardwired 0. -/
  status : Byte
  /-- FAULT_PC (R42). -/
  faultPc : Word
  /-- FAULT_OP (R43). -/
  faultOp : Word
  /-- UNK_OP (R44). -/
  unkOp : Word
  /-- UNK_PC (R45). -/
  unkPc : Word
  /-- MODEL'S OWN: the parameters of this engine (R8); never written. Log entry 1. -/
  config : Config
  /-- MODEL'S OWN: how many RND samples have been taken (R54), the argument of `Config.rndByte`. Log entry 2. -/
  draws : Nat
  deriving DecidableEq, Repr

/-- The state RESET leaves in an engine of configuration c (R46, R261); memory has nothing listed, so it reads as the
reset contents: the font at FONT_BASE, 0 elsewhere. -/
def State.resetWith (c : Config) : State where
  v := Vector.replicate 16 0
  i := 0
  pc := 0x200
  sp := 0
  stack := Vector.replicate 16 0
  dt := 0
  st := 0
  mem := []
  video := Vector.replicate 32 (Vector.replicate 64 false)
  keys := Vector.replicate 16 false
  opcode := 0
  status := 0
  faultPc := 0
  faultOp := 0
  unkOp := 0
  unkPc := 0
  config := c
  draws := 0

/-- The machine right after reset, with the default parameters (R8). -/
def State.reset : State := State.resetWith defaultConfig

end Sys2Proof.Machine
end

