-- ==== Sys2Proof/Machine/Flags.lean ====
section
/-! DEFINITION. Machine/Flags.lean: every value an instruction writes to VF as a flag (43_alu R164), and the fields of
STATUS (10_state R40) with their writes. -/

namespace Sys2Proof.Machine

/-- A flag as the byte VF takes: 1 or 0 (R18 "flag"). -/
def flagByte (b : Bool) : Byte := if b then 1 else 0

/-- 8xy4's carry (R158): the unsigned sum exceeds 255. -/
def carryFlag (a b : Byte) : Byte := flagByte (decide (255 < a.toNat + b.toNat))

/-- The flag of 8xy5 and 8xy7 (R159, R161): the minuend is strictly greater. -/
def greaterFlag (minuend subtrahend : Byte) : Byte := flagByte (decide (subtrahend.toNat < minuend.toNat))

/-- 8xy6's flag (R160): the old bit 0. -/
def shiftedOutLow (a : Byte) : Byte := flagByte (a.getLsbD 0)

/-- 8xyE's flag (R162): the old bit 7. -/
def shiftedOutHigh (a : Byte) : Byte := flagByte (a.getLsbD 7)

/-- The code of a fatal condition in CAUSE (R222). -/
def Cause.code : Cause → BitVec 3
  | .fetchMisaligned => 1
  | .fetchRange => 2
  | .stackOverflow => 3
  | .stackUnderflow => 4
  | .keyIndex => 5

/-- STATUS.HALT, bit 0 (R40). -/
def statusHalt (w : Byte) : Bool := w.getLsbD 0
/-- STATUS.CAUSE, bits 3:1 (R40). -/
def statusCause (w : Byte) : BitVec 3 := w.extractLsb' 1 3
/-- STATUS.UNK_SEEN, bit 4 (R40). -/
def statusUnkSeen (w : Byte) : Bool := w.getLsbD 4
/-- STATUS.LOAD_ERR, bit 5 (R40). -/
def statusLoadErr (w : Byte) : Bool := w.getLsbD 5
/-- STATUS bits 7:6, reserved (R40). -/
def statusReserved (w : Byte) : BitVec 2 := w.extractLsb' 6 2

/-- STATUS with HALT set and CAUSE the given code, its other bits kept (R226). -/
def statusWithHalt (w : Byte) (code : BitVec 3) : Byte := w.extractLsb' 4 4 ++ code ++ 1#1

/-- STATUS with UNK_SEEN set (R116). -/
def statusWithUnkSeen (w : Byte) : Byte := w ||| 0x10#8

/-- STATUS with LOAD_ERR set (R52). -/
def statusWithLoadErr (w : Byte) : Byte := w ||| 0x20#8

/-- STATUS as STATE_READ shows it: the hardwired bits 7:6 read as 0 (R40, log entry 10). -/
def statusRead (w : Byte) : Byte := w &&& 0x3F#8

end Sys2Proof.Machine
end

