-- ==== Sys2Proof/Machine/Memory.lean ====
section
/-! DEFINITION. Machine/Memory.lean: the 4096-byte memory array (10_state R32, 20_memory R61, R62) as a canonical list of
the cells that differ from the reset contents (10_state R46). Log entry 9. -/

namespace Sys2Proof.Machine

/-- What an address that is not listed reads as: the reset contents (R46), FONT_ROM[a - FONT_BASE] inside the font's
80 bytes and 0 elsewhere. -/
def Memory.unlisted (c : Config) (a : Nat) : Byte :=
  if h : c.fontBase.val ≤ a ∧ a - c.fontBase.val < 80 then c.fontRom[a - c.fontBase.val]'h.2 else 0

/-- The byte at address a. -/
def Memory.read (c : Config) : Memory → Nat → Byte
  | [], a => Memory.unlisted c a
  | (b, w) :: m, a => if b = a then w else Memory.read c m a

/-- The list without address a. -/
def Memory.erase (m : Memory) (a : Nat) : Memory := m.filter fun cell => cell.1 != a

/-- The list with one more cell at its place in the rising order. -/
def Memory.insert (a : Nat) (w : Byte) : Memory → Memory
  | [] => [(a, w)]
  | (b, u) :: m => if a < b then (a, w) :: (b, u) :: m else (b, u) :: Memory.insert a w m

/-- The memory with w at address a; writing the reset byte removes the entry. -/
def Memory.write (c : Config) (m : Memory) (a : Nat) (w : Byte) : Memory :=
  if w = Memory.unlisted c a then m.erase a else (m.erase a).insert a w

/-- The canonical form: addresses strictly rising and inside the 4096 bytes, no entry equal to the reset byte. -/
abbrev Memory.wf (c : Config) (m : Memory) : Prop :=
  m.Pairwise (fun p q => p.1 < q.1) ∧ ∀ e ∈ m, e.1 < 4096 ∧ e.2 ≠ Memory.unlisted c e.1

end Sys2Proof.Machine
end

