-- ==== Sys2Proof/Machine/Ops.lean ====
section
/-! DEFINITION. Machine/Ops.lean: the named operations over State that the meanings share: registers, memory bytes,
pixels, keys, the stack, entering the halted state, the unknown-opcode report and the countdown. -/

namespace Sys2Proof.Machine

/-- V[x] (R13, R22). -/
def State.getV (s : State) (x : Reg) : Byte := s.v[x.toNat]'x.isLt

/-- V[x] <- b (R13, R22): no register is hardwired. -/
def State.setV (s : State) (x : Reg) (b : Byte) : State := { s with v := s.v.set x.toNat b x.isLt }

/-- VF <- f, then V[x] <- r, the flag and the result computed before (R151): with x = F the result stays. -/
def State.setFlagAndV (s : State) (x : Reg) (f r : Byte) : State := (s.setV vf f).setV x r

/-- pc <- w (R13). -/
def State.setPc (s : State) (w : Word) : State := { s with pc := w }

/-- I <- w (R27). -/
def State.setI (s : State) (w : Word) : State := { s with i := w }

/-- DT <- b (R30). -/
def State.setDt (s : State) (b : Byte) : State := { s with dt := b }

/-- ST <- b (R31). -/
def State.setSt (s : State) (b : Byte) : State := { s with st := b }

/-- opcode <- w, the current-instruction latch (R36). -/
def State.setOpcode (s : State) (w : Word) : State := { s with opcode := w }

/-- One RND sample has been taken (R54; log entry 2). -/
def State.nextDraw (s : State) : State := { s with draws := s.draws + 1 }

/-- MemRead(a, 1) (R14). -/
def State.readByte (s : State) (a : Addr) : Byte := Memory.read s.config s.mem a.toNat

/-- MemWrite(a, 1, b) (R14). -/
def State.writeByte (s : State) (a : Addr) (b : Byte) : State :=
  { s with mem := Memory.write s.config s.mem a.toNat b }

/-- video[r][c] (R34). -/
def State.pixel (s : State) (r : Fin 32) (c : Fin 64) : Bool := (s.video.get r).get c

/-- video[r][c] <- b (R34). -/
def State.setPixel (s : State) (r : Fin 32) (c : Fin 64) (b : Bool) : State :=
  { s with video := s.video.set r.val ((s.video.get r).set c.val b c.isLt) r.isLt }

/-- Every pixel 0 (R196). -/
def State.clearVideo (s : State) : State := { s with video := Vector.replicate 32 (Vector.replicate 64 false) }

/-- KEYS[k] (R35). -/
def State.key (s : State) (k : BitVec 4) : Bool := s.keys[k.toNat]'k.isLt

/-- The lowest-indexed pressed key, none where no key is pressed (R212). -/
def State.lowestKey (s : State) : Option Nat := (List.range 16).find? fun k => s.key (BitVec.ofNat 4 k)

/-- stack[k], the entry at index k (R28). -/
def State.stackAt (s : State) (k : Fin 16) : Word := s.stack.get k

/-- stack[sp] <- w, sp <- sp + 1 (R133); none where sp = 16. -/
def State.push (s : State) (w : Word) : Option State :=
  if h : s.sp.val < 16 then
    some { s with stack := s.stack.set s.sp.val w h, sp := ⟨s.sp.val + 1, by omega⟩ }
  else none

/-- sp <- sp - 1 and the entry there, which is not cleared (R131, R29); none where sp = 0. -/
def State.pop (s : State) : Option (Word × State) :=
  if h : 0 < s.sp.val then
    have hlt := s.sp.isLt
    some (s.stackAt ⟨s.sp.val - 1, by omega⟩, { s with sp := ⟨s.sp.val - 1, by omega⟩ })
  else none

/-- STATUS.HALT (R40). -/
def State.halted (s : State) : Bool := statusHalt s.status

/-- raise Halt(C) in a cycle whose instruction stands at a: HALT and CAUSE set, FAULT_PC <- a, FAULT_OP <- op, pc back
at a (R226). No raise comes after another write of the instruction, so nothing else is to be restored but the opcode
latch, which the end of the cycle restores (`State.endCycle`, R36). -/
def State.raiseHalt (s : State) (c : Cause) (a op : Word) : State :=
  { s with pc := a, status := statusWithHalt s.status c.code, faultPc := a, faultOp := op }

/-- raise Halt(C) from an executing instruction: pc is its address plus 2 (R114) and the latch holds its word (R111). -/
def State.raiseInExec (s : State) (c : Cause) : State := s.raiseHalt c (s.pc - 2) s.opcode

/-- report UnknownOpcode(op) of the word at a (R116). -/
def State.reportUnknown (s : State) (op a : Word) : State :=
  { s with status := statusWithUnkSeen s.status, unkOp := op, unkPc := a }

/-- One timer's countdown: 1 less if nonzero (R118). -/
def timerTick (t : Byte) : Byte := if t = 0 then 0 else t - 1

/-- The countdown of DT and ST at the end of a completed cycle (R118). -/
def State.countdown (s : State) : State := { s with dt := timerTick s.dt, st := timerTick s.st }

/-- A skip: pc + 2 beyond the pre-increment if the condition holds (42_skips, R114). -/
def State.skipIf (s : State) (b : Bool) : State := if b then s.setPc (s.pc + 2) else s

/-- The word w stored at address a, high byte first (R64, R81). -/
def State.storeWord (s : State) (a : Word) (w : Word) : State :=
  (s.writeByte (a.setWidth 12) (highByte w)).writeByte ((a + 1).setWidth 12) (lowByte w)

end Sys2Proof.Machine
end

