-- ==== Sys2Proof/Machine/Operands.lean ====
section
/-! DEFINITION. Machine/Operands.lean: how operands are formed (30_encoding R84, 20_memory R63): addresses from nnn and I,
the key index, the font address, the decimal digits, the pixel position of a sprite bit. -/

namespace Sys2Proof.Machine

/-- zext_16(nnn) (R84). -/
def absoluteTarget (nnn : BitVec 12) : Word := nnn.setWidth 16

/-- zext_16(V[x]) (R134, R182). -/
def byteToWord (b : Byte) : Word := b.setWidth 16

/-- DataAddr(I, k) = (zext_17(I) + k) mod 4096 (R63). Log entry 5 (decision D4). -/
def dataAddr (i : Word) (k : Nat) : Addr := BitVec.ofNat 12 ((i.toNat + k) % 4096)

/-- The address of the glyph for byte b: FONT_BASE + 5 * b, b not masked (R183). -/
def glyphAddr (c : Config) (b : Byte) : Word := BitVec.ofNat 16 (c.fontBase.val + 5 * b.toNat)

/-- The key index V[x] as an index of the 16-entry table; none above 0xF (R145). -/
def keyIndex (b : Byte) : Option (BitVec 4) := if b.toNat ≤ 0xF then some (BitVec.ofNat 4 b.toNat) else none

/-- The hundreds digit (R184). -/
def bcdHundreds (b : Byte) : Byte := BitVec.ofNat 8 (b.toNat / 100)
/-- The tens digit (R184). -/
def bcdTens (b : Byte) : Byte := BitVec.ofNat 8 ((b.toNat / 10) % 10)
/-- The ones digit (R184). -/
def bcdOnes (b : Byte) : Byte := BitVec.ofNat 8 (b.toNat % 10)

/-- The column of a sprite bit: (V[x] + col) mod 64 (R200). -/
def pixelColumn (px : Byte) (col : Nat) : Fin 64 := ⟨(px.toNat + col) % 64, Nat.mod_lt _ (by decide)⟩

/-- The row of a sprite bit: (V[y] + row) mod 32 (R200). -/
def pixelRow (py : Byte) (row : Nat) : Fin 32 := ⟨(py.toNat + row) % 32, Nat.mod_lt _ (by decide)⟩

/-- The bit of a sprite byte at column offset col: bit 7 is column 0 (R199). Log entry 7 (decision D16). -/
def spriteBit (b : Byte) (col : Nat) : Bool := b.getLsbD (7 - col)

end Sys2Proof.Machine
end

