-- ==== Sys2Proof/Machine/Cycle.lean ====
section
/-! DEFINITION. Machine/Cycle.lean: the parts of one engine cycle around the instruction (40_cycle R111): the halted
check, the fetch checks, fetch, latch, pre-increment, decode, and the end of the cycle. -/

namespace Sys2Proof.Machine

/-- Fetch16(A) (R112): the big-endian word at A and A + 1. -/
def State.fetch16 (s : State) (a : Word) : Word :=
  wordOfBytes (s.readByte (a.setWidth 12)) (s.readByte ((a + 1).setWidth 12))

/-- How a cycle goes on after decode: it is over, or an instruction is to run on the given state. -/
inductive CycleStart where
  | done (t : State)
  | dispatch (i : Instr) (t : State)
  deriving DecidableEq, Repr

/-- The state an instruction sees: the word latched and pc = A + 2 (R111, R114). -/
def State.fetched (s : State) : State := (s.setOpcode (s.fetch16 s.pc)).setPc (s.pc + 2)

/-- A cycle up to the instruction (R111): halted (R119), FETCH_MISALIGNED before FETCH_RANGE (R113, R225), fetch, latch,
pre-increment, decode; an unknown word is reported and counted down (R116, R118). -/
def State.beginCycle (s : State) : CycleStart :=
  if s.halted then .done s
  else if s.pc.getLsbD 0 then .done (s.raiseHalt .fetchMisaligned s.pc 0)
  else if 0xFFE < s.pc.toNat then .done (s.raiseHalt .fetchRange s.pc 0)
  else
    match decode (s.fetch16 s.pc) with
    | .inst i => .dispatch i s.fetched
    | .unknown _ => .done (s.fetched.reportUnknown (s.fetch16 s.pc) s.pc).countdown

/-- The end of a cycle that began in s and whose instruction left t: after a fatal condition the opcode latch is restored
and nothing counts down (R226, R36, log entry 8); else the countdown (R118). -/
def State.endCycle (s t : State) : State :=
  if t.halted then t.setOpcode s.opcode else t.countdown

end Sys2Proof.Machine
end

