-- ==== Sys2Proof/Machine/Alu.lean ====
section
/-! DEFINITION. Machine/Alu.lean: 6xkk, 7xkk, 8xy0 to 8xyE, Cxkk (43_alu). Every operand is read from the state the
instruction starts in, then VF is written, then V[x] (R151; log entry 6, decision D9). -/

namespace Sys2Proof.Machine

/-- 6xkk LD Vx, kk (R152). -/
def execLdImm (x : Reg) (kk : Byte) (s : State) : Host.Outcome State Fault Refusal :=
  .next (s.setV x kk)

/-- 7xkk ADD Vx, kk (R153): modulo 256, no flag. -/
def execAddImm (x : Reg) (kk : Byte) (s : State) : Host.Outcome State Fault Refusal :=
  .next (s.setV x (s.getV x + kk))

/-- 8xy0 LD Vx, Vy (R154). -/
def execLdReg (x y : Reg) (s : State) : Host.Outcome State Fault Refusal :=
  .next (s.setV x (s.getV y))

/-- 8xy1 OR Vx, Vy (R155): no flag. -/
def execOrReg (x y : Reg) (s : State) : Host.Outcome State Fault Refusal :=
  .next (s.setV x (s.getV x ||| s.getV y))

/-- 8xy2 AND Vx, Vy (R156): no flag. -/
def execAndReg (x y : Reg) (s : State) : Host.Outcome State Fault Refusal :=
  .next (s.setV x (s.getV x &&& s.getV y))

/-- 8xy3 XOR Vx, Vy (R157): no flag. -/
def execXorReg (x y : Reg) (s : State) : Host.Outcome State Fault Refusal :=
  .next (s.setV x (s.getV x ^^^ s.getV y))

/-- 8xy4 ADD Vx, Vy (R158): VF is the carry. -/
def execAddReg (x y : Reg) (s : State) : Host.Outcome State Fault Refusal :=
  .next (s.setFlagAndV x (carryFlag (s.getV x) (s.getV y)) (s.getV x + s.getV y))

/-- 8xy5 SUB Vx, Vy (R159): VF is V[x] > V[y], strictly. -/
def execSubReg (x y : Reg) (s : State) : Host.Outcome State Fault Refusal :=
  .next (s.setFlagAndV x (greaterFlag (s.getV x) (s.getV y)) (s.getV x - s.getV y))

/-- 8xy6 SHR Vx (R160): VF is the old bit 0; y is not read. -/
def execShr (x _y : Reg) (s : State) : Host.Outcome State Fault Refusal :=
  .next (s.setFlagAndV x (shiftedOutLow (s.getV x)) (s.getV x >>> 1))

/-- 8xy7 SUBN Vx, Vy (R161): VF is V[y] > V[x], strictly. -/
def execSubn (x y : Reg) (s : State) : Host.Outcome State Fault Refusal :=
  .next (s.setFlagAndV x (greaterFlag (s.getV y) (s.getV x)) (s.getV y - s.getV x))

/-- 8xyE SHL Vx (R162): VF is the old bit 7; y is not read. -/
def execShl (x _y : Reg) (s : State) : Host.Outcome State Fault Refusal :=
  .next (s.setFlagAndV x (shiftedOutHigh (s.getV x)) (s.getV x <<< 1))

/-- Cxkk RND Vx, kk (R165): one draw, a free value (R54), AND kk. Log entry 2. -/
def execRnd (x : Reg) (kk : Byte) (s : State) : Host.Outcome State Fault Refusal :=
  .next (s.setV x (Config.rndByte s.draws &&& kk)).nextDraw

end Sys2Proof.Machine
end

