-- ==== Sys2Proof/Machine/ControlFlow.lean ====
section
/-! DEFINITION. Machine/ControlFlow.lean: 00EE, 1nnn, 2nnn, Bnnn (41_control_flow). On entry pc = A + 2 (R114). -/

namespace Sys2Proof.Machine

/-- 00EE RET (R131): STACK_UNDERFLOW at sp = 0, else sp - 1 and pc <- stack[sp]. -/
def execRet (s : State) : Host.Outcome State Fault Refusal :=
  match s.pop with
  | some (w, t) => .next (t.setPc w)
  | none => .next (s.raiseInExec .stackUnderflow)

/-- 1nnn JP nnn (R132). -/
def execJp (nnn : BitVec 12) (s : State) : Host.Outcome State Fault Refusal :=
  .next (s.setPc (absoluteTarget nnn))

/-- 2nnn CALL nnn (R133): STACK_OVERFLOW at sp = 16, else push pc (A + 2) and pc <- nnn. -/
def execCall (nnn : BitVec 12) (s : State) : Host.Outcome State Fault Refusal :=
  match s.push s.pc with
  | some t => .next (t.setPc (absoluteTarget nnn))
  | none => .next (s.raiseInExec .stackOverflow)

/-- Bnnn JP V0, nnn (R134): the 16-bit sum, not reduced modulo 4096. -/
def execJpV0 (nnn : BitVec 12) (s : State) : Host.Outcome State Fault Refusal :=
  .next (s.setPc (absoluteTarget nnn + byteToWord (s.getV 0)))

end Sys2Proof.Machine
end

