-- ==== Sys2Proof/Machine/Display.lean ====
section
/-! DEFINITION. Machine/Display.lean: 00E0 and Dxyn (45_display). -/

namespace Sys2Proof.Machine

/-- One set sprite bit on the pixel (r, c): VF <- 1 if the pixel is lit, then the pixel is toggled (R197). -/
def State.togglePixel (s : State) (r : Fin 32) (c : Fin 64) : State :=
  (if s.pixel r c then s.setV vf 1 else s).setPixel r c (!s.pixel r c)

/-- The eight columns of one sprite row: sprite byte b, row offset row, coordinates px and py (R197). -/
def State.drawRow (s : State) (px py b : Byte) (row : Nat) : State :=
  (List.range 8).foldl
    (fun t col => if spriteBit b col then t.togglePixel (pixelRow py row) (pixelColumn px col) else t) s

/-- The n rows of a sprite at I, row 0 first (R197). -/
def State.drawRows (s : State) (px py : Byte) (n : Nat) : State :=
  (List.range n).foldl (fun t row => t.drawRow px py (t.readByte (dataAddr t.i row)) row) s

/-- 00E0 CLS (R196). -/
def execCls (s : State) : Host.Outcome State Fault Refusal :=
  .next s.clearVideo

/-- Dxyn DRW Vx, Vy, n (R197): the coordinates are read before VF is cleared (log entry 6, decision D9). -/
def execDrw (x y : Reg) (n : BitVec 4) (s : State) : Host.Outcome State Fault Refusal :=
  .next ((s.setV vf 0).drawRows (s.getV x) (s.getV y) n.toNat)

end Sys2Proof.Machine
end

