-- ==== Sys2Proof/Machine/Index.lean ====
section
/-! DEFINITION. Machine/Index.lean: Annn, Fx1E, Fx29, Fx33, Fx55, Fx65 (44_index_memory). -/

namespace Sys2Proof.Machine

/-- V[0..n-1] stored at DataAddr(I, 0..n-1), V0 first (R185). -/
def State.storeV (s : State) (n : Nat) : State :=
  (List.range n).foldl (fun t k => t.writeByte (dataAddr s.i k) (s.getV (BitVec.ofNat 4 k))) s

/-- V[0..n-1] loaded from DataAddr(I, 0..n-1), V0 first (R186). -/
def State.loadV (s : State) (n : Nat) : State :=
  (List.range n).foldl (fun t k => t.setV (BitVec.ofNat 4 k) (s.readByte (dataAddr s.i k))) s

/-- Annn LD I, nnn (R181). -/
def execLdI (nnn : BitVec 12) (s : State) : Host.Outcome State Fault Refusal :=
  .next (s.setI (absoluteTarget nnn))

/-- Fx1E ADD I, Vx (R182): modulo 65536, no flag. -/
def execAddIVx (x : Reg) (s : State) : Host.Outcome State Fault Refusal :=
  .next (s.setI (s.i + byteToWord (s.getV x)))

/-- Fx29 LD F, Vx (R183). -/
def execLdFVx (x : Reg) (s : State) : Host.Outcome State Fault Refusal :=
  .next (s.setI (glyphAddr s.config (s.getV x)))

/-- Fx33 LD B, Vx (R184): hundreds, tens, ones at DataAddr(I, 0..2). -/
def execLdBVx (x : Reg) (s : State) : Host.Outcome State Fault Refusal :=
  .next (((s.writeByte (dataAddr s.i 0) (bcdHundreds (s.getV x))).writeByte (dataAddr s.i 1) (bcdTens (s.getV x))).writeByte
    (dataAddr s.i 2) (bcdOnes (s.getV x)))

/-- Fx55 LD [I], Vx (R185): V0..Vx inclusive; I unchanged. -/
def execStoreRegs (x : Reg) (s : State) : Host.Outcome State Fault Refusal :=
  .next (s.storeV (x.toNat + 1))

/-- Fx65 LD Vx, [I] (R186): V0..Vx inclusive; I unchanged. -/
def execLoadRegs (x : Reg) (s : State) : Host.Outcome State Fault Refusal :=
  .next (s.loadV (x.toNat + 1))

end Sys2Proof.Machine
end

