-- ==== Sys2Proof/Machine/Skips.lean ====
section
/-! DEFINITION. Machine/Skips.lean: 3xkk, 4xkk, 5xy0, 9xy0, Ex9E, ExA1 (42_skips). On entry pc = A + 2 (R114). -/

namespace Sys2Proof.Machine

/-- 3xkk SE Vx, kk (R141). -/
def execSeImm (x : Reg) (kk : Byte) (s : State) : Host.Outcome State Fault Refusal :=
  .next (s.skipIf (s.getV x == kk))

/-- 4xkk SNE Vx, kk (R142). -/
def execSneImm (x : Reg) (kk : Byte) (s : State) : Host.Outcome State Fault Refusal :=
  .next (s.skipIf (s.getV x != kk))

/-- 5xy0 SE Vx, Vy (R143). -/
def execSeReg (x y : Reg) (s : State) : Host.Outcome State Fault Refusal :=
  .next (s.skipIf (s.getV x == s.getV y))

/-- 9xy0 SNE Vx, Vy (R144). -/
def execSneReg (x y : Reg) (s : State) : Host.Outcome State Fault Refusal :=
  .next (s.skipIf (s.getV x != s.getV y))

/-- Ex9E SKP Vx (R145): KEY_INDEX where V[x] > 0xF. -/
def execSkp (x : Reg) (s : State) : Host.Outcome State Fault Refusal :=
  match keyIndex (s.getV x) with
  | some k => .next (s.skipIf (s.key k))
  | none => .next (s.raiseInExec .keyIndex)

/-- ExA1 SKNP Vx (R146): KEY_INDEX where V[x] > 0xF. -/
def execSknp (x : Reg) (s : State) : Host.Outcome State Fault Refusal :=
  match keyIndex (s.getV x) with
  | some k => .next (s.skipIf (!s.key k))
  | none => .next (s.raiseInExec .keyIndex)

end Sys2Proof.Machine
end

