-- ==== Sys2Proof/Machine/Step.lean ====
section
/-! DEFINITION. Machine/Step.lean: one CYCLE (10_state R50, 40_cycle R111). -/

namespace Sys2Proof.Machine

/-- One engine cycle: `State.beginCycle`, at most one instruction, `State.endCycle` (R111). -/
def step (s : State) : Host.Outcome State Fault Refusal :=
  match s.beginCycle with
  | .done t => .next t
  | .dispatch i t =>
    match exec i t with
    | .next u => .next (s.endCycle u)
    | .fault f => .fault f
    | .refused r => .refused r

/-- s with the instruction word w (bit 0 the least significant, bits above nbits 0) stored at pc, where the next cycle
fetches; nothing else changes (log entry 4). -/
def State.withFetchWord (s : State) (nbits w : Nat) : State :=
  s.storeWord s.pc (BitVec.ofNat 16 (w % 2 ^ nbits))

end Sys2Proof.Machine
end

