-- ==== Sys2Proof/Machine/Transactions.lean ====
section
/-! DEFINITION. Machine/Transactions.lean: the external transactions of 10_state R48 and a run of them (70_reset R269;
log entry 4).
RND is the free value `Config.rndByte`, sampled by Cxkk (R54). -/

namespace Sys2Proof.Machine

/-- RESET from any state (R49, R261): every element of R46, whatever the state was. The parameters stay (R8), and the
count of RND samples goes on, so that a draw after RESET is a fresh one (R54; log entry 2). -/
def State.afterReset (s : State) : State := { State.resetWith s.config with draws := s.draws }

/-- KEYS_WRITE(k16) (R51). -/
def State.keysWrite (s : State) (k16 : BitVec 16) : State :=
  { s with keys := Vector.ofFn fun k => k16.getLsbD k.val }

/-- The bytes of an image stored from address a on, in order (R52). -/
def State.storeImage : State → Nat → List Byte → State
  | s, _, [] => s
  | s, a, b :: rest => State.storeImage (s.writeByte (BitVec.ofNat 12 a) b) (a + 1) rest

/-- LOAD(b[0..L-1]) (R52): at most 3584 bytes to 0x200; a longer image sets LOAD_ERR and nothing else (R229). -/
def State.load (s : State) (image : List Byte) : State :=
  if imageFits image then s.storeImage 0x200 image else { s with status := statusWithLoadErr s.status }

/-- SOUND (R55): sound_on = (ST != 0). -/
def State.soundOn (s : State) : Bool := s.st != 0

/-- What STATE_READ returns (R56). -/
structure RegisterView where
  dt : Byte
  st : Byte
  status : Byte
  faultPc : Word
  faultOp : Word
  unkOp : Word
  unkPc : Word
  deriving DecidableEq, Repr

/-- STATE_READ (R56): the hardwired bits of STATUS read as 0 (R40). -/
def State.registerView (s : State) : RegisterView where
  dt := s.dt
  st := s.st
  status := statusRead s.status
  faultPc := s.faultPc
  faultOp := s.faultOp
  unkOp := s.unkOp
  unkPc := s.unkPc

/-- The transactions the host issues (R48). -/
inductive Transaction where
  | reset
  | cycle
  | keysWrite (k16 : BitVec 16)
  | load (image : List Byte)
  | videoRead
  | sound
  | stateRead
  deriving DecidableEq, Repr

/-- What a transaction returns to the host (R48, R50 "A CYCLE has no result other than the state it leaves"). -/
inductive Response where
  | nothing
  | loadOk
  | loadTooLarge
  | pixels (v : Video)
  | soundOn (b : Bool)
  | registers (r : RegisterView)
  deriving DecidableEq, Repr

/-- The state a transaction leaves (R48). -/
def transact (x : Transaction) (s : State) : Host.Outcome State Fault Refusal :=
  match x with
  | .reset => .next s.afterReset
  | .cycle => step s
  | .keysWrite k16 => .next (s.keysWrite k16)
  | .load image => .next (s.load image)
  | .videoRead => .next s
  | .sound => .next s
  | .stateRead => .next s

/-- The result of a transaction issued in s (R50 to R56). -/
def response (x : Transaction) (s : State) : Response :=
  match x with
  | .reset => .nothing
  | .cycle => .nothing
  | .keysWrite _ => .nothing
  | .load image => if imageFits image then .loadOk else .loadTooLarge
  | .videoRead => .pixels s.video
  | .sound => .soundOn s.soundOn
  | .stateRead => .registers s.registerView

/-- The transactions of a list in order (R48: serialised; R269: a run is such a list after RESET). -/
def runTransactions : List Transaction → State → Host.Outcome State Fault Refusal
  | [], s => .next s
  | x :: rest, s =>
    match transact x s with
    | .next t => runTransactions rest t
    | .fault f => .fault f
    | .refused r => .refused r

end Sys2Proof.Machine
end

