-- ==== Sys2Proof/Safety.lean ====
section
/-! DEFINITION. Safety.lean: the terms the claims use: the parts of a state and what stays unchanged, the invariants
the spec gives (10_state R26, R29, R40; 60_exceptions R222), and the ends of a run (70_reset R269). -/

namespace Sys2Proof.Machine

/-- The parts of a state, each register, memory byte and pixel on its own (R21, and the model's two fields). -/
inductive Part where
  | reg (x : Reg)
  | index
  | pc
  | sp
  | stackEntry (k : Fin 16)
  | dt
  | st
  | byte (a : Addr)
  | pixel (r : Fin 32) (c : Fin 64)
  | key (k : BitVec 4)
  | opcode
  | status
  | faultPc
  | faultOp
  | unkOp
  | unkPc
  | config
  | draws
  deriving DecidableEq, Repr

/-- A part holds the same value in both states. -/
def Part.Same (p : Part) (s t : State) : Prop :=
  match p with
  | .reg x => t.getV x = s.getV x
  | .index => t.i = s.i
  | .pc => t.pc = s.pc
  | .sp => t.sp = s.sp
  | .stackEntry k => t.stackAt k = s.stackAt k
  | .dt => t.dt = s.dt
  | .st => t.st = s.st
  | .byte a => t.readByte a = s.readByte a
  | .pixel r c => t.pixel r c = s.pixel r c
  | .key k => t.key k = s.key k
  | .opcode => t.opcode = s.opcode
  | .status => t.status = s.status
  | .faultPc => t.faultPc = s.faultPc
  | .faultOp => t.faultOp = s.faultOp
  | .unkOp => t.unkOp = s.unkOp
  | .unkPc => t.unkPc = s.unkPc
  | .config => t.config = s.config
  | .draws => t.draws = s.draws

/-- Every part but the listed ones is unchanged from s to t: the frame of an instruction. -/
def UnchangedBut (changed : List Part) (s t : State) : Prop := ∀ p, p ∉ changed → p.Same s t

/-- The engine is not halted (R40). -/
abbrev Running (s : State) : Prop := s.halted = false

/-- The next CYCLE fetches: running, pc even and at most 0xFFE (R113, R119). -/
abbrev Fetches (s : State) : Prop := s.halted = false ∧ s.pc.toNat % 2 = 0 ∧ s.pc.toNat ≤ 0xFFE

/-- The word the next CYCLE fetches: big-endian at pc (R64, R112). -/
def fetchedWord (s : State) : Word :=
  s.readByte (BitVec.ofNat 12 s.pc.toNat) ++ s.readByte (BitVec.ofNat 12 (s.pc.toNat + 1))

/-- The memory has its canonical form. -/
abbrev MemoryCanonical (s : State) : Prop := Memory.wf s.config s.mem

/-- What R40 and R222 say of the records at every cycle boundary: the reserved bits are 0, CAUSE is 0 to 5, 0 exactly
when HALT is 0; while HALT is 0 FAULT_PC and FAULT_OP are 0; a fetch condition leaves FAULT_OP 0; the halted pc stays at
FAULT_PC (R226). -/
def RecordsLegal (s : State) : Prop :=
  statusReserved s.status = 0 ∧
  (statusCause s.status).toNat ≤ 5 ∧
  (statusCause s.status = 0 ↔ s.halted = false) ∧
  (s.halted = false → s.faultPc = 0 ∧ s.faultOp = 0) ∧
  ((statusCause s.status).toNat = 1 ∨ (statusCause s.status).toNat = 2 → s.faultOp = 0) ∧
  (s.halted = true → s.pc = s.faultPc)

/-- R26: pc never exceeds 0x10FE; every stack entry is an even return address of at most 0x1000, or the reset value. -/
def PcBounded (s : State) : Prop :=
  s.pc.toNat ≤ 0x10FE ∧ ∀ k, (s.stackAt k).toNat ≤ 0x1000 ∧ (s.stackAt k).toNat % 2 = 0

/-- An instruction's word carries its row's fixed digits: word AND mask = value ("Encoding: match, mask", R95). -/
def EncodedBy (i : Instr) (value mask : Word) : Prop := encode i &&& mask = value

/-- The bits of STATUS that a fatal condition does not write are kept (R40, R226). -/
def OtherStatusKept (s t : State) : Prop :=
  statusUnkSeen t.status = statusUnkSeen s.status ∧ statusLoadErr t.status = statusLoadErr s.status ∧
  statusReserved t.status = statusReserved s.status

/-- R226 seen at a cycle boundary: t is s with HALT set, CAUSE = c, FAULT_PC the pc of s and FAULT_OP = op; every other
part, pc and the opcode latch among them, is as before the cycle. -/
def HaltsWith (c : BitVec 3) (op : Word) (s t : State) : Prop :=
  t.halted = true ∧ statusCause t.status = c ∧ t.faultPc = s.pc ∧ t.faultOp = op ∧ OtherStatusKept s t ∧
  UnchangedBut [.status, .faultPc, .faultOp] s t

/-- R226 seen inside a cycle: s is the state an instruction at A sees (pc = A + 2, its word latched); t has HALT set,
CAUSE = c, FAULT_PC = A, FAULT_OP the word, pc back at A, and every other part as s has it. -/
def RaisesInExec (c : BitVec 3) (s t : State) : Prop :=
  t.halted = true ∧ statusCause t.status = c ∧ t.faultPc = s.pc - 2 ∧ t.faultOp = s.opcode ∧ t.pc = s.pc - 2 ∧
  OtherStatusKept s t ∧ UnchangedBut [.pc, .status, .faultPc, .faultOp] s t

/-- The execute-stage condition of an instruction (R222, R225): its CAUSE, none where it has none. -/
def executeCause (s : State) : Instr → Option (BitVec 3)
  | .call _ => if s.sp.val = 16 then some 3 else none
  | .ret => if s.sp.val = 0 then some 4 else none
  | .skp x => if 0xF < (s.getV x).toNat then some 5 else none
  | .sknp x => if 0xF < (s.getV x).toNat then some 5 else none
  | _ => none

/-- The fatal condition of the next cycle of a running engine, in the order of R225, with the word FAULT_OP takes (R222). -/
def fatalCause (s : State) : Option (BitVec 3 × Word) :=
  if s.pc.toNat % 2 = 1 then some (1, 0)
  else if 0xFFE < s.pc.toNat then some (2, 0)
  else
    match decode (fetchedWord s) with
    | .inst i => (executeCause s i).map fun c => (c, fetchedWord s)
    | .unknown _ => none

/-- The condition of a skip instruction (R141 to R146). -/
def skipTaken (s : State) : Instr → Bool
  | .seImm x kk => s.getV x == kk
  | .sneImm x kk => s.getV x != kk
  | .seReg x y => s.getV x == s.getV y
  | .sneReg x y => s.getV x != s.getV y
  | .skp x => s.key ((s.getV x).setWidth 4)
  | .sknp x => !s.key ((s.getV x).setWidth 4)
  | _ => false

/-- pc at the end of a completed cycle that runs i and began in s: the table of R120. -/
def pcAfter (s : State) : Instr → Nat
  | .jp nnn => nnn.toNat
  | .call nnn => nnn.toNat
  | .jpV0 nnn => nnn.toNat + (s.getV 0).toNat
  | .ret => (s.stackAt ⟨s.sp.val - 1, by have := s.sp.isLt; omega⟩).toNat
  | .ldVxK _ => if ∀ k, s.key k = false then s.pc.toNat else s.pc.toNat + 2
  | i => if skipTaken s i then s.pc.toNat + 4 else s.pc.toNat + 2

/-- The registers an instruction may write: the last column of R24. -/
def writtenRegisters : Instr → List Reg
  | .ldImm x _ => [x]
  | .addImm x _ => [x]
  | .ldReg x _ => [x]
  | .orReg x _ => [x]
  | .andReg x _ => [x]
  | .xorReg x _ => [x]
  | .addReg x _ => [vf, x]
  | .subReg x _ => [vf, x]
  | .subn x _ => [vf, x]
  | .shr x _ => [vf, x]
  | .shl x _ => [vf, x]
  | .rnd x _ => [x]
  | .drw _ _ _ => [vf]
  | .ldVxDt x => [x]
  | .ldVxK x => [x]
  | .loadRegs x => (List.range (x.toNat + 1)).map fun k => BitVec.ofNat 4 k
  | _ => []

/-- A set bit of the n-row sprite at I lands on the pixel (r, c): for some row < n and col < 8, s_row[7-col] = 1, r is
(py + row) mod 32 and c is (px + col) mod 64 (R197, R200). -/
def SpriteCovers (s : State) (px py : Byte) (n : Nat) (r : Fin 32) (c : Fin 64) : Prop :=
  ∃ row col : Nat, row < n ∧ col < 8 ∧ (s.readByte (dataAddr s.i row)).getLsbD (7 - col) = true ∧
    r.val = (py.toNat + row) % 32 ∧ c.val = (px.toNat + col) % 64

/-- The state of R46 for the configuration c. -/
def ResetValues (c : Config) (s : State) : Prop :=
  (∀ x, s.getV x = 0) ∧ s.i = 0 ∧ s.pc = 0x200 ∧ s.sp = 0 ∧ (∀ k, s.stackAt k = 0) ∧ s.dt = 0 ∧ s.st = 0 ∧
  (∀ a : Addr, a.toNat < c.fontBase.val ∨ c.fontBase.val + 80 ≤ a.toNat → s.readByte a = 0) ∧
  (∀ j : Fin 80, s.readByte (BitVec.ofNat 12 (c.fontBase.val + j.val)) = c.fontRom.get j) ∧
  (∀ r k, s.pixel r k = false) ∧ (∀ k, s.key k = false) ∧ s.opcode = 0 ∧ s.status = 0 ∧ s.faultPc = 0 ∧
  s.faultOp = 0 ∧ s.unkOp = 0 ∧ s.unkPc = 0 ∧ s.config = c

/-- Two states a program cannot tell apart by the latch and the records (R36, R41, R47): every other part is the same, and
both are halted or both run. -/
def SameForPrograms (s s' : State) : Prop :=
  s'.halted = s.halted ∧ UnchangedBut [.opcode, .status, .faultPc, .faultOp, .unkOp, .unkPc] s s'

/-- Two states that differ at most in stack entries at index sp and above (R29). -/
def SameButStaleStack (s s' : State) : Prop :=
  ∀ p : Part, (∀ k, p = .stackEntry k → k.val < s.sp.val) → p.Same s s'

/-- The run has ended halted (R269). -/
def EndedHalted (s : State) : Prop := s.halted = true

/-- The run has ended idle at P (R269): not halted, pc = P even and at most 0xFFE, the word there is 1nnn with nnn = P,
both timers 0. -/
def EndedIdleAt (s : State) (p : Word) : Prop :=
  s.halted = false ∧ s.pc = p ∧ p.toNat % 2 = 0 ∧ p.toNat ≤ 0xFFE ∧
  fetchedWord s = 0x1#4 ++ p.setWidth 12 ∧ s.dt = 0 ∧ s.st = 0

end Sys2Proof.Machine
end

