-- ==== Sys2Proof/Certificates/Slice0/Obligations.lean ====
section
/-! DEFINITION. Certificates/Slice0/Obligations.lean: the statements for the provers. Each docstring names the rule of spec/
it formalises; OBLIGATIONS.json lists them in this order. -/

open Sys2Proof Sys2Proof.Machine

/-! ## Reset, fetch, decode, the cycle -/

/-- R46: the value of every piece of state after RESET, for every configuration; State.reset is such a state. -/
def Obligations.ResetGivesEveryValue : Prop :=
  (∀ c : Config, ResetValues c (State.resetWith c)) ∧ State.reset = State.resetWith State.reset.config

/-- Sanity: words written out from the encodings of R83 and R95 decode to the instruction they stand for. -/
def Obligations.SpecWordsDecode : Prop :=
  decode 0x00E0#16 = .inst .cls ∧ decode 0x00EE#16 = .inst .ret ∧ decode 0x2210#16 = .inst (.call 0x210) ∧
  decode 0xE59E#16 = .inst (.skp 5) ∧ decode 0x5120#16 = .inst (.seReg 1 2) ∧ decode 0x6A7B#16 = .inst (.ldImm 0xA 0x7B) ∧
  decode 0x8124#16 = .inst (.addReg 1 2) ∧ decode 0xF433#16 = .inst (.ldBVx 4) ∧ decode 0xD015#16 = .inst (.drw 0 1 5) ∧
  decode 0xF20A#16 = .inst (.ldVxK 2) ∧ decode 0x0120#16 = .unknown .group0 ∧ decode 0xE00E#16 = .unknown .groupE

/-- Decode and encode agree (derived from 30_encoding): every instruction, with every operand at every value, is read
back from its word, and from its two bytes in front of any stream, of which exactly two bytes are consumed (R83, R92,
R94). -/
def Obligations.DecodeOfEncode : Prop :=
  ∀ (i : Instr) (rest : List Byte), i.wellFormed = true ∧ decode (encode i) = .inst i ∧
    decodeBytes (encodeBytes i ++ rest) = (.inst i, rest)

/-- Each word has one meaning: the word an instruction was decoded from is that instruction's encoding. -/
def Obligations.EncodeOfDecode : Prop :=
  ∀ (w : Word) (i : Instr), decode w = .inst i → encode i = w

/-- R86: a word decodes to an instruction of a row exactly when the row's fixed digits equal the word's, it is unknown
exactly when no row of R95 matches, and no two rows match one word. -/
def Obligations.DecodeMatchesTheTable : Prop :=
  ∀ w : Word,
    (∀ r ∈ opcodeRows, r.fixes w = true ↔ ∃ i, decode w = .inst i ∧ i.row = r) ∧
    ((∃ why, decode w = .unknown why) ↔ ∀ r ∈ opcodeRows, r.fixes w = false) ∧
    (∀ r ∈ opcodeRows, ∀ r' ∈ opcodeRows, r.fixes w = true → r'.fixes w = true → r = r')

/-- A step runs the decoded instruction: on the state with the word latched and pc + 2, and around it only the end of
the cycle, which counts the timers down, or restores the latch after a fatal condition (R111, R114, R115, R118, R226).
-/
def Obligations.StepRunsTheDecodedInstruction : Prop :=
  ∀ (s : State) (i : Instr), Fetches s → decode (fetchedWord s) = .inst i →
    step s =
      match exec i { s with opcode := fetchedWord s, pc := s.pc + 2 } with
      | .next t =>
        .next (if t.halted then { t with opcode := s.opcode }
          else { t with dt := if t.dt = 0 then 0 else t.dt - 1, st := if t.st = 0 then 0 else t.st - 1 })
      | .fault f => .fault f
      | .refused r => .refused r

/-- R113: fetch checks its address before reading, the misalignment first: an odd pc halts with CAUSE 1, an even pc
above 0xFFE with CAUSE 2, both with FAULT_OP 0 and nothing else changed. -/
def Obligations.FetchChecksItsAddress : Prop :=
  ∀ s : State, Running s →
    (s.pc.toNat % 2 = 1 → ∃ t, step s = .next t ∧ HaltsWith 1 0 s t) ∧
    (s.pc.toNat % 2 = 0 → 0xFFE < s.pc.toNat → ∃ t, step s = .next t ∧ HaltsWith 2 0 s t)

/-- R119: a halted CYCLE changes no state at all, and only RESET leaves the halted state. -/
def Obligations.HaltedCycleChangesNothing : Prop :=
  ∀ s : State, s.halted = true →
    step s = .next s ∧ ∀ x t, transact x s = .next t → x ≠ .reset → t.halted = true

/-- R116: an unknown word sets UNK_SEEN, UNK_OP and UNK_PC, pc is A + 2, the cycle goes on to the countdown, and
everything else is as before; it never halts the engine. -/
def Obligations.UnknownWordIsAReportedNoOp : Prop :=
  ∀ (s : State) (why : UnknownWord), Fetches s → decode (fetchedWord s) = .unknown why →
    ∃ t, step s = .next t ∧ statusUnkSeen t.status = true ∧ t.unkOp = fetchedWord s ∧ t.unkPc = s.pc ∧
      t.pc = s.pc + 2 ∧ t.opcode = fetchedWord s ∧ t.dt.toNat = s.dt.toNat - 1 ∧ t.st.toNat = s.st.toNat - 1 ∧
      t.halted = false ∧ statusCause t.status = statusCause s.status ∧
      statusLoadErr t.status = statusLoadErr s.status ∧ statusReserved t.status = statusReserved s.status ∧
      UnchangedBut [.pc, .opcode, .dt, .st, .status, .unkOp, .unkPc] s t

/-! ## Fatal conditions, over the whole machine -/

/-- R225, R226, with the codes of the table of R222: a cycle of a running engine raises the first condition that
holds, in the order of R225, and no other; it leaves the state before the cycle with HALT, CAUSE, FAULT_PC and
FAULT_OP written, and nothing counted down. -/
def Obligations.FatalConditionsFollowTheTable : Prop :=
  ∀ s t : State, Running s → step s = .next t →
    (∀ c op, fatalCause s = some (c, op) → HaltsWith c op s t) ∧ (fatalCause s = none → t.halted = false)

/-- Derived (the spec marks R70 "[derived: from rules R63, R69]"): no word, no instruction and no memory access stops
the machine: every cycle, every instruction and every transaction answers a next state, from every state. -/
def Obligations.EveryCycleAnswersANextState : Prop :=
  (∀ s, ∃ t, step s = .next t) ∧ (∀ i s, ∃ t, exec i s = .next t) ∧ (∀ x s, ∃ t, transact x s = .next t)

/-! ## Invariants that every step keeps -/

/-- The model's own form of the memory array (log entry 9), kept by every step: addresses rising inside the 4096
bytes, no entry equal to the reset contents. -/
def Obligations.StepKeepsMemoryCanonical : Prop :=
  ∀ s t : State, MemoryCanonical s → step s = .next t → MemoryCanonical t

/-- Derived from 10_state and 60_exceptions: the reserved bits of STATUS stay 0, CAUSE stays 0 to 5 and is 0 exactly
when HALT is 0, the fault records are 0 while running, FAULT_OP is 0 after a fetch condition, and the halted pc is
FAULT_PC. -/
def Obligations.StepKeepsRecordsLegal : Prop :=
  ∀ s t : State, RecordsLegal s → step s = .next t → RecordsLegal t

/-- Derived (the spec's sentence "pc arithmetic never wraps at 16 bits", which it marks as derived): pc never exceeds
0x10FE; the stack holds only even addresses of at most 0x1000. -/
def Obligations.StepKeepsPcBounded : Prop :=
  ∀ s t : State, PcBounded s → step s = .next t → PcBounded t

/-- The three invariants hold right after reset, in every configuration. Derived: the memory clause is about the model's
own form of the memory array (log entry 9, DESIGN CHOICE), the clause on pc rests on the spec's sentence "pc arithmetic
never wraps at 16 bits", which it marks as derived. -/
def Obligations.ResetMeetsTheInvariants : Prop :=
  ∀ c : Config, MemoryCanonical (State.resetWith c) ∧ RecordsLegal (State.resetWith c) ∧ PcBounded (State.resetWith c)

/-- The host's other transactions keep the invariants too, an oversized LOAD among them. Derived: the memory clause is
about the model's own form of the memory array (log entry 9, DESIGN CHOICE), the clause on pc rests on the spec's
sentence "pc arithmetic never wraps at 16 bits", which it marks as derived. -/
def Obligations.HostTransactionsKeepTheInvariants : Prop :=
  ∀ (x : Transaction) (s t : State), x ≠ .cycle → MemoryCanonical s → RecordsLegal s → PcBounded s →
    transact x s = .next t → MemoryCanonical t ∧ RecordsLegal t ∧ PcBounded t

/-- The model's own form of the memory array (log entry 9): two memories in canonical form that read the same at every
address are the same list. -/
def Obligations.CanonicalMemoriesAgreeByReading : Prop :=
  ∀ (c : Config) (m m' : Memory), Memory.wf c m → Memory.wf c m' →
    (∀ a : Addr, Memory.read c m a.toNat = Memory.read c m' a.toNat) → m = m'

/-! ## Control transfer (41_control_flow) -/

/-- R131: RET with sp = 0 raises STACK_UNDERFLOW; else it pops: pc is the entry below sp, which is not cleared. -/
def Obligations.RetPopsTheReturnAddress : Prop :=
  EncodedBy .ret 0x00EE 0xFFFF ∧
  ∀ s : State,
    (s.sp.val = 0 → ∃ t, exec .ret s = .next t ∧ RaisesInExec 4 s t) ∧
    (∀ k : Fin 16, s.sp.val = k.val + 1 →
      ∃ t, exec .ret s = .next t ∧ t.pc = s.stackAt k ∧ t.sp.val = k.val ∧ UnchangedBut [.pc, .sp] s t)

/-- R132, R134: JP sets pc to nnn; JP V0 to nnn + V0, with no wrap. -/
def Obligations.JumpsSetThePc : Prop :=
  ∀ (s : State) (nnn : BitVec 12),
    (EncodedBy (.jp nnn) 0x1000 0xF000 ∧
      ∃ t, exec (.jp nnn) s = .next t ∧ t.pc.toNat = nnn.toNat ∧ UnchangedBut [.pc] s t) ∧
    (EncodedBy (.jpV0 nnn) 0xB000 0xF000 ∧
      ∃ t, exec (.jpV0 nnn) s = .next t ∧ t.pc.toNat = nnn.toNat + (s.getV 0).toNat ∧ UnchangedBut [.pc] s t)

/-- R133: CALL with sp = 16 raises STACK_OVERFLOW; else it pushes the pre-incremented pc and jumps. -/
def Obligations.CallPushesTheReturnAddress : Prop :=
  ∀ (s : State) (nnn : BitVec 12), EncodedBy (.call nnn) 0x2000 0xF000 ∧
    (s.sp.val = 16 → ∃ t, exec (.call nnn) s = .next t ∧ RaisesInExec 3 s t) ∧
    (∀ k : Fin 16, s.sp.val = k.val →
      ∃ t, exec (.call nnn) s = .next t ∧ t.stackAt k = s.pc ∧ t.sp.val = k.val + 1 ∧ t.pc.toNat = nnn.toNat ∧
        UnchangedBut [.pc, .sp, .stackEntry k] s t)

/-- Derived from 41_control_flow (95 S4, 90 C4): a CALL and the RET after it leave pc as the CALL saw it (A + 2) and
sp as it was. -/
def Obligations.CallThenReturn : Prop :=
  ∀ (s : State) (nnn : BitVec 12) (k : Fin 16), s.sp.val = k.val →
    ∃ t u, exec (.call nnn) s = .next t ∧ exec .ret t = .next u ∧ u.pc = s.pc ∧ u.sp = s.sp ∧
      UnchangedBut [.stackEntry k] s u

/-! ## Skips (42_skips) -/

/-- R141 to R144: the four register skips add 2 to pc exactly when their condition holds, and change nothing else. -/
def Obligations.RegisterSkips : Prop :=
  ∀ (s : State) (x y : Reg) (kk : Byte),
    (EncodedBy (.seImm x kk) 0x3000 0xF000 ∧ ∃ t, exec (.seImm x kk) s = .next t ∧ UnchangedBut [.pc] s t ∧
      (s.getV x = kk → t.pc = s.pc + 2) ∧ (s.getV x ≠ kk → t.pc = s.pc)) ∧
    (EncodedBy (.sneImm x kk) 0x4000 0xF000 ∧ ∃ t, exec (.sneImm x kk) s = .next t ∧ UnchangedBut [.pc] s t ∧
      (s.getV x ≠ kk → t.pc = s.pc + 2) ∧ (s.getV x = kk → t.pc = s.pc)) ∧
    (EncodedBy (.seReg x y) 0x5000 0xF00F ∧ ∃ t, exec (.seReg x y) s = .next t ∧ UnchangedBut [.pc] s t ∧
      (s.getV x = s.getV y → t.pc = s.pc + 2) ∧ (s.getV x ≠ s.getV y → t.pc = s.pc)) ∧
    (EncodedBy (.sneReg x y) 0x9000 0xF00F ∧ ∃ t, exec (.sneReg x y) s = .next t ∧ UnchangedBut [.pc] s t ∧
      (s.getV x ≠ s.getV y → t.pc = s.pc + 2) ∧ (s.getV x = s.getV y → t.pc = s.pc))

/-- R145, R146: SKP and SKNP raise KEY_INDEX where V[x] > 0xF; else they skip by KEYS[V[x]]. -/
def Obligations.KeySkips : Prop :=
  ∀ (s : State) (x : Reg), EncodedBy (.skp x) 0xE09E 0xF0FF ∧ EncodedBy (.sknp x) 0xE0A1 0xF0FF ∧
    (0xF < (s.getV x).toNat →
      (∃ t, exec (.skp x) s = .next t ∧ RaisesInExec 5 s t) ∧ (∃ t, exec (.sknp x) s = .next t ∧ RaisesInExec 5 s t)) ∧
    (∀ k : BitVec 4, (s.getV x).toNat = k.toNat →
      (∃ t, exec (.skp x) s = .next t ∧ UnchangedBut [.pc] s t ∧
        (s.key k = true → t.pc = s.pc + 2) ∧ (s.key k = false → t.pc = s.pc)) ∧
      (∃ t, exec (.sknp x) s = .next t ∧ UnchangedBut [.pc] s t ∧
        (s.key k = false → t.pc = s.pc + 2) ∧ (s.key k = true → t.pc = s.pc)))

/-! ## Moves and the ALU (43_alu) -/

/-- R152 to R154: LD Vx, kk; ADD Vx, kk modulo 256 with no flag; LD Vx, Vy. Only V[x] changes. -/
def Obligations.MovesAndAddImmediate : Prop :=
  ∀ (s : State) (x y : Reg) (kk : Byte),
    (EncodedBy (.ldImm x kk) 0x6000 0xF000 ∧
      ∃ t, exec (.ldImm x kk) s = .next t ∧ t.getV x = kk ∧ UnchangedBut [.reg x] s t) ∧
    (EncodedBy (.addImm x kk) 0x7000 0xF000 ∧
      ∃ t, exec (.addImm x kk) s = .next t ∧ (t.getV x).toNat = ((s.getV x).toNat + kk.toNat) % 256 ∧
        UnchangedBut [.reg x] s t) ∧
    (EncodedBy (.ldReg x y) 0x8000 0xF00F ∧
      ∃ t, exec (.ldReg x y) s = .next t ∧ t.getV x = s.getV y ∧ UnchangedBut [.reg x] s t)

/-- R155 to R157: OR, AND and XOR, bit by bit; only V[x] changes, VF is no flag here. -/
def Obligations.LogicIsBitwise : Prop :=
  ∀ (s : State) (x y : Reg),
    (EncodedBy (.orReg x y) 0x8001 0xF00F ∧ ∃ t, exec (.orReg x y) s = .next t ∧ UnchangedBut [.reg x] s t ∧
      ∀ k, (t.getV x).getLsbD k = ((s.getV x).getLsbD k || (s.getV y).getLsbD k)) ∧
    (EncodedBy (.andReg x y) 0x8002 0xF00F ∧ ∃ t, exec (.andReg x y) s = .next t ∧ UnchangedBut [.reg x] s t ∧
      ∀ k, (t.getV x).getLsbD k = ((s.getV x).getLsbD k && (s.getV y).getLsbD k)) ∧
    (EncodedBy (.xorReg x y) 0x8003 0xF00F ∧ ∃ t, exec (.xorReg x y) s = .next t ∧ UnchangedBut [.reg x] s t ∧
      ∀ k, (t.getV x).getLsbD k = ((s.getV x).getLsbD k != (s.getV y).getLsbD k))

/-- R158: ADD Vx, Vy is the sum modulo 256 and VF the carry; with x = F the final VF is the sum. -/
def Obligations.AddSetsTheCarry : Prop :=
  ∀ (s : State) (x y : Reg), EncodedBy (.addReg x y) 0x8004 0xF00F ∧
    ∃ t, exec (.addReg x y) s = .next t ∧ UnchangedBut [.reg x, .reg vf] s t ∧
      (t.getV x).toNat = ((s.getV x).toNat + (s.getV y).toNat) % 256 ∧
      (x ≠ vf → (t.getV vf).toNat = if 255 < (s.getV x).toNat + (s.getV y).toNat then 1 else 0)

/-- R159, R161: SUB and SUBN are the differences modulo 256, VF is 1 exactly when the minuend is strictly greater;
with x = F the final VF is the difference. -/
def Obligations.SubtractionsSetTheFlagStrictly : Prop :=
  ∀ (s : State) (x y : Reg),
    (EncodedBy (.subReg x y) 0x8005 0xF00F ∧
      ∃ t, exec (.subReg x y) s = .next t ∧ UnchangedBut [.reg x, .reg vf] s t ∧
        (t.getV x).toNat = ((s.getV x).toNat + 256 - (s.getV y).toNat) % 256 ∧
        (x ≠ vf → (t.getV vf).toNat = if (s.getV y).toNat < (s.getV x).toNat then 1 else 0)) ∧
    (EncodedBy (.subn x y) 0x8007 0xF00F ∧
      ∃ t, exec (.subn x y) s = .next t ∧ UnchangedBut [.reg x, .reg vf] s t ∧
        (t.getV x).toNat = ((s.getV y).toNat + 256 - (s.getV x).toNat) % 256 ∧
        (x ≠ vf → (t.getV vf).toNat = if (s.getV x).toNat < (s.getV y).toNat then 1 else 0))

/-- R160, R162: SHR and SHL by one, VF the bit shifted out of V[x]; y plays no part; with x = F the final VF is the
shifted value. -/
def Obligations.ShiftsSetTheBitShiftedOut : Prop :=
  ∀ (s : State) (x y : Reg),
    (EncodedBy (.shr x y) 0x8006 0xF00F ∧
      ∃ t, exec (.shr x y) s = .next t ∧ UnchangedBut [.reg x, .reg vf] s t ∧
        (t.getV x).toNat = (s.getV x).toNat / 2 ∧ (x ≠ vf → (t.getV vf).toNat = (s.getV x).toNat % 2)) ∧
    (EncodedBy (.shl x y) 0x800E 0xF00F ∧
      ∃ t, exec (.shl x y) s = .next t ∧ UnchangedBut [.reg x, .reg vf] s t ∧
        (t.getV x).toNat = (s.getV x).toNat * 2 % 256 ∧ (x ≠ vf → (t.getV vf).toNat = (s.getV x).toNat / 128))

/-- 43_alu, RND: one draw, a free value, and V[x] is the draw AND kk: a bit that kk has clear is clear, and the others
are the draw's. Only V[x] and the count of draws change; the count is the model's own (log entry 2), and the statement
holds for every value of the draws. -/
def Obligations.RandomByteIsMasked : Prop :=
  ∀ (s : State) (x : Reg) (kk : Byte), EncodedBy (.rnd x kk) 0xC000 0xF000 ∧
    ∃ t, exec (.rnd x kk) s = .next t ∧ t.draws = s.draws + 1 ∧ UnchangedBut [.reg x, .draws] s t ∧
      ∀ k, (t.getV x).getLsbD k = ((Config.rndByte s.draws).getLsbD k && kk.getLsbD k)

/-! ## Index register and memory (44_index_memory, 20_memory) -/

/-- R181 to R183: LD I, ADD I modulo 65536 with no flag, LD F with V[x] not masked. Only I changes. -/
def Obligations.IndexRegisterWrites : Prop :=
  ∀ (s : State) (x : Reg) (nnn : BitVec 12),
    (EncodedBy (.ldI nnn) 0xA000 0xF000 ∧
      ∃ t, exec (.ldI nnn) s = .next t ∧ t.i.toNat = nnn.toNat ∧ UnchangedBut [.index] s t) ∧
    (EncodedBy (.addIVx x) 0xF01E 0xF0FF ∧
      ∃ t, exec (.addIVx x) s = .next t ∧ t.i.toNat = (s.i.toNat + (s.getV x).toNat) % 65536 ∧
        UnchangedBut [.index] s t) ∧
    (EncodedBy (.ldFVx x) 0xF029 0xF0FF ∧
      ∃ t, exec (.ldFVx x) s = .next t ∧ t.i.toNat = s.config.fontBase.val + 5 * (s.getV x).toNat ∧
        UnchangedBut [.index] s t)

/-- Derived from 44_index_memory and 10_state: after RESET, LD F with V[x] = d at most 0xF points I at the five bytes of
FONT_ROM's glyph d, for every FONT_BASE and FONT_ROM. -/
def Obligations.FontGlyphsStandAtTheirAddress : Prop :=
  ∀ (c : Config) (x : Reg) (d : Byte), d.toNat ≤ 0xF →
    ∃ t, exec (.ldFVx x) ((State.resetWith c).setV x d) = .next t ∧
      ∀ j, j < 5 → c.fontRom[5 * d.toNat + j]? = some (t.readByte (dataAddr t.i j))

/-- Derived from 20_memory (the spec marks the distinctness "[derived: ...]"): a data address is (I + k) mod 4096, and
the at most 16 addresses of one instruction are pairwise distinct. -/
def Obligations.DataAddressesAreDistinct : Prop :=
  ∀ (i : Word) (k k' : Nat), k < 16 → k' < 16 →
    (dataAddr i k).toNat = (i.toNat + k) % 4096 ∧ (dataAddr i k = dataAddr i k' → k = k')

/-- R184: LD B stores the three decimal digits at DataAddr(I, 0..2) and changes no other byte and nothing else. -/
def Obligations.BcdStoresThreeDigits : Prop :=
  ∀ (s : State) (x : Reg), EncodedBy (.ldBVx x) 0xF033 0xF0FF ∧
    ∃ t, exec (.ldBVx x) s = .next t ∧
      (t.readByte (dataAddr s.i 0)).toNat = (s.getV x).toNat / 100 ∧
      (t.readByte (dataAddr s.i 1)).toNat = (s.getV x).toNat / 10 % 10 ∧
      (t.readByte (dataAddr s.i 2)).toNat = (s.getV x).toNat % 10 ∧
      UnchangedBut [.byte (dataAddr s.i 0), .byte (dataAddr s.i 1), .byte (dataAddr s.i 2)] s t

/-- R185: LD [I], Vx stores V0..Vx at DataAddr(I, 0..x) and changes no other byte and nothing else, I least of all. -/
def Obligations.StoreRegistersToMemory : Prop :=
  ∀ (s : State) (x : Reg), EncodedBy (.storeRegs x) 0xF055 0xF0FF ∧
    ∃ t, exec (.storeRegs x) s = .next t ∧
      (∀ k : Reg, k.toNat ≤ x.toNat → t.readByte (dataAddr s.i k.toNat) = s.getV k) ∧
      UnchangedBut ((List.range (x.toNat + 1)).map fun k => .byte (dataAddr s.i k)) s t

/-- R186: LD Vx, [I] loads V0..Vx from DataAddr(I, 0..x) and changes nothing else. -/
def Obligations.LoadRegistersFromMemory : Prop :=
  ∀ (s : State) (x : Reg), EncodedBy (.loadRegs x) 0xF065 0xF0FF ∧
    ∃ t, exec (.loadRegs x) s = .next t ∧
      (∀ k : Reg, k.toNat ≤ x.toNat → t.getV k = s.readByte (dataAddr s.i k.toNat)) ∧
      UnchangedBut ((List.range (x.toNat + 1)).map fun k => .reg (BitVec.ofNat 4 k)) s t

/-- Derived from 20_memory (byte order and coherence of fetch): a word stored by LD [I], Vx at an even address is what
a fetch there reads, big-endian. The second clause is about the model's own withFetchWord, which stands for the host's
LOAD (log entry 4, DESIGN CHOICE): the word it places at pc is the word that stands at pc, high byte first, whatever pc
is; a cycle fetches it where `Fetches` holds, and at the other values of pc raises the fetch condition first. -/
def Obligations.StoredWordIsFetched : Prop :=
  (∀ (s t : State) (x k k' : Reg), exec (.storeRegs x) s = .next t → k'.toNat = k.toNat + 1 → k'.toNat ≤ x.toNat →
    (dataAddr s.i k.toNat).toNat % 2 = 0 →
    fetchedWord { t with pc := (dataAddr s.i k.toNat).setWidth 16 } = s.getV k ++ s.getV k') ∧
  (∀ (s : State) (w : Word), fetchedWord (s.withFetchWord 16 w.toNat) = w)

/-! ## Display (45_display) -/

/-- R196: CLS clears every pixel and changes nothing else. -/
def Obligations.ClsClearsEveryPixel : Prop :=
  EncodedBy .cls 0x00E0 0xFFFF ∧
  ∀ s : State, ∃ t, exec .cls s = .next t ∧ (∀ r c, t.pixel r c = false) ∧
    ∀ p : Part, (∀ r c, p ≠ .pixel r c) → p.Same s t

/-- R197 in closed form, with R200: DRW toggles exactly the pixels a set sprite bit lands on, the coordinates being
V[x] and V[y] as they were (VF too, where x or y is F); VF is 1 if one of them was lit and 0 otherwise; nothing else
changes. -/
def Obligations.DrawTogglesTheSprite : Prop :=
  ∀ (s : State) (x y : Reg) (n : BitVec 4), EncodedBy (.drw x y n) 0xD000 0xF000 ∧
    ∃ t, exec (.drw x y n) s = .next t ∧
      (∀ r c, SpriteCovers s (s.getV x) (s.getV y) n.toNat r c → t.pixel r c = !s.pixel r c) ∧
      (∀ r c, ¬SpriteCovers s (s.getV x) (s.getV y) n.toNat r c → t.pixel r c = s.pixel r c) ∧
      ((∃ r c, SpriteCovers s (s.getV x) (s.getV y) n.toNat r c ∧ s.pixel r c = true) → t.getV vf = 1) ∧
      ((∀ r c, SpriteCovers s (s.getV x) (s.getV y) n.toNat r c → s.pixel r c = false) → t.getV vf = 0) ∧
      ∀ p : Part, p ≠ .reg vf → (∀ r c, p ≠ .pixel r c) → p.Same s t

/-- Derived (the spec marks R198 "[derived: from rules R91, R197]"): DRW with n = 0 writes VF = 0 and changes nothing
else. -/
def Obligations.DrawWithNoRows : Prop :=
  ∀ (s : State) (x y : Reg), ∃ t, exec (.drw x y 0) s = .next t ∧ t.getV vf = 0 ∧ UnchangedBut [.reg vf] s t

/-- Derived (the spec marks R201 "[derived: from rules R197, R200]"): within one DRW every sprite bit lands on a
different pixel. -/
def Obligations.SpriteBitsHitDistinctPixels : Prop :=
  ∀ (px py : Byte) (row row' col col' : Nat), row < 15 → row' < 15 → col < 8 → col' < 8 →
    pixelRow py row = pixelRow py row' → pixelColumn px col = pixelColumn px col' → row = row' ∧ col = col'

/-- Derived from 45_display (95 S5): the same DRW twice, with coordinates not in VF, leaves the screen as it was (XOR
cancels), and the second sets VF exactly when the first turned some pixel on. -/
def Obligations.DrawTwiceRestoresTheScreen : Prop :=
  ∀ (s : State) (x y : Reg) (n : BitVec 4), x ≠ vf → y ≠ vf →
    ∃ t u, exec (.drw x y n) s = .next t ∧ exec (.drw x y n) t = .next u ∧ (∀ r c, u.pixel r c = s.pixel r c) ∧
      (u.getV vf = 1 ↔ ∃ r c, s.pixel r c = false ∧ t.pixel r c = true)

/-! ## Timers and keys (46_timers_input) -/

/-- R211, R213, R214: LD Vx, DT; LD DT, Vx; LD ST, Vx, and what the same cycle's countdown then leaves. -/
def Obligations.TimerTransfers : Prop :=
  ∀ (s0 s : State) (x : Reg), Running s →
    (EncodedBy (.ldVxDt x) 0xF007 0xF0FF ∧ ∃ t, exec (.ldVxDt x) s = .next t ∧ t.getV x = s.dt ∧
      UnchangedBut [.reg x] s t ∧ (s0.endCycle t).dt.toNat = (t.getV x).toNat - 1) ∧
    (EncodedBy (.ldDtVx x) 0xF015 0xF0FF ∧ ∃ t, exec (.ldDtVx x) s = .next t ∧ t.dt = s.getV x ∧
      UnchangedBut [.dt] s t ∧ (s0.endCycle t).dt.toNat = (s.getV x).toNat - 1) ∧
    (EncodedBy (.ldStVx x) 0xF018 0xF0FF ∧ ∃ t, exec (.ldStVx x) s = .next t ∧ t.st = s.getV x ∧
      UnchangedBut [.st] s t ∧ (s0.endCycle t).st.toNat = (s.getV x).toNat - 1)

/-- R212: LD Vx, K gives the lowest-indexed pressed key; with no key pressed pc goes back by 2 and nothing else
changes. -/
def Obligations.KeyWait : Prop :=
  ∀ (s : State) (x : Reg), EncodedBy (.ldVxK x) 0xF00A 0xF0FF ∧
    (∀ k : BitVec 4, s.key k = true → (∀ j : BitVec 4, j.toNat < k.toNat → s.key j = false) →
      ∃ t, exec (.ldVxK x) s = .next t ∧ (t.getV x).toNat = k.toNat ∧ UnchangedBut [.reg x] s t) ∧
    ((∀ k, s.key k = false) → ∃ t, exec (.ldVxK x) s = .next t ∧ t.pc = s.pc - 2 ∧ UnchangedBut [.pc] s t)

/-- R118: every completed cycle counts each timer down by 1 to the floor 0, after the instruction: from its old value
unless Fx15 (for DT) or Fx18 (for ST) wrote it, then from the value written; Fx07 reads DT before. A cycle that raises
a fatal condition, or of a halted engine, counts nothing down. -/
def Obligations.TimersCountDownAfterTheInstruction : Prop :=
  ∀ s t : State, step s = .next t →
    (t.halted = true → t.dt = s.dt ∧ t.st = s.st) ∧
    (t.halted = false →
      ((∀ x, decode (fetchedWord s) ≠ .inst (.ldDtVx x)) → t.dt.toNat = s.dt.toNat - 1) ∧
      (∀ x, decode (fetchedWord s) = .inst (.ldDtVx x) → t.dt.toNat = (s.getV x).toNat - 1) ∧
      ((∀ x, decode (fetchedWord s) ≠ .inst (.ldStVx x)) → t.st.toNat = s.st.toNat - 1) ∧
      (∀ x, decode (fetchedWord s) = .inst (.ldStVx x) → t.st.toNat = (s.getV x).toNat - 1) ∧
      (∀ x, decode (fetchedWord s) = .inst (.ldVxDt x) → t.getV x = s.dt))

/-! ## Whole-machine rules -/

/-- The table of R120, which the spec marks "[derived: from rules R111, R114 and the instruction rules]": pc at the
end of a cycle is A when the engine is or becomes halted, A + 2 after an unknown word, and the table's value after an
instruction. -/
def Obligations.PcAtTheEndOfACycle : Prop :=
  ∀ s t : State, step s = .next t →
    (t.halted = true → t.pc = s.pc) ∧
    (t.halted = false → ∀ why, decode (fetchedWord s) = .unknown why → t.pc.toNat = s.pc.toNat + 2) ∧
    (t.halted = false → ∀ i, decode (fetchedWord s) = .inst i → t.pc.toNat = pcAfter s i)

/-- Derived from 10_state and 20_memory, who writes what: memory changes only in Fx33 and Fx55, the screen only in
00E0 and Dxyn, I only in Annn, Fx1E and Fx29, sp only in 2nnn and 00EE, stack entries only in 2nnn, the count of draws
(the model's own, log entry 2) only in Cxkk, KEYS and the parameters in no cycle. -/
def Obligations.OnlyTheNamedInstructionsWrite : Prop :=
  ∀ s t : State, step s = .next t →
    (∀ a, t.readByte a ≠ s.readByte a →
      ∃ x, decode (fetchedWord s) = .inst (.ldBVx x) ∨ decode (fetchedWord s) = .inst (.storeRegs x)) ∧
    (∀ r c, t.pixel r c ≠ s.pixel r c →
      decode (fetchedWord s) = .inst .cls ∨ ∃ x y n, decode (fetchedWord s) = .inst (.drw x y n)) ∧
    (t.i ≠ s.i → (∃ nnn, decode (fetchedWord s) = .inst (.ldI nnn)) ∨
      ∃ x, decode (fetchedWord s) = .inst (.addIVx x) ∨ decode (fetchedWord s) = .inst (.ldFVx x)) ∧
    (t.sp ≠ s.sp → decode (fetchedWord s) = .inst .ret ∨ ∃ nnn, decode (fetchedWord s) = .inst (.call nnn)) ∧
    (∀ k, t.stackAt k ≠ s.stackAt k → ∃ nnn, decode (fetchedWord s) = .inst (.call nnn)) ∧
    (t.draws ≠ s.draws → ∃ x kk, decode (fetchedWord s) = .inst (.rnd x kk)) ∧
    (∀ k, t.key k = s.key k) ∧ t.config = s.config

/-- The table of R24, which the spec marks "[derived: from rules R131 to R214]": a general register changes only in a
cycle whose instruction has it in the table's last column. -/
def Obligations.RegistersChangeOnlyByTheTable : Prop :=
  ∀ (s t : State) (r : Reg), step s = .next t → t.getV r ≠ s.getV r →
    ∃ i, decode (fetchedWord s) = .inst i ∧ r ∈ writtenRegisters i

/-- Derived from 10_state ("The engine has no microarchitectural state a program can observe"): no instruction reads
the opcode latch or the records: two states that differ only there (and in how their memory is listed) step to two
states that differ only there. -/
def Obligations.LatchAndRecordsAreInvisible : Prop :=
  ∀ s s' t t' : State, SameForPrograms s s' → step s = .next t → step s' = .next t' → SameForPrograms t t'

/-- Derived from 10_state ("No instruction can observe those stale values"): no instruction can observe stale stack
entries: two states that differ only in entries at index sp and above step to two states that differ only so. -/
def Obligations.StaleStackEntriesAreInvisible : Prop :=
  ∀ s s' t t' : State, SameButStaleStack s s' → step s = .next t → step s' = .next t' → SameButStaleStack t t'

/-- Derived from 10_state (the column "kind" of STATUS, "Only RESET clears them") and 60_exceptions: for every
transaction but RESET, UNK_SEEN and LOAD_ERR stay once set, and HALT, CAUSE, FAULT_PC and FAULT_OP stay once HALT is 1;
each changes only on its own event: HALT, CAUSE, FAULT_PC and FAULT_OP in a cycle of a running engine that raises a fatal
condition, UNK_SEEN, UNK_OP and UNK_PC in a cycle that fetches an unknown word (a later one overwrites the two), LOAD_ERR
in a LOAD that is too long. -/
def Obligations.RecordsAreStickyUntilReset : Prop :=
  ∀ (x : Transaction) (s t : State), x ≠ .reset → transact x s = .next t →
    (statusUnkSeen s.status = true → statusUnkSeen t.status = true) ∧
    (statusLoadErr s.status = true → statusLoadErr t.status = true) ∧
    (s.halted = true → t.halted = true ∧ statusCause t.status = statusCause s.status ∧ t.faultPc = s.faultPc ∧
      t.faultOp = s.faultOp) ∧
    (t.halted ≠ s.halted ∨ statusCause t.status ≠ statusCause s.status ∨ t.faultPc ≠ s.faultPc ∨
      t.faultOp ≠ s.faultOp → x = .cycle ∧ Running s ∧ fatalCause s ≠ none) ∧
    (statusUnkSeen t.status ≠ statusUnkSeen s.status ∨ t.unkOp ≠ s.unkOp ∨ t.unkPc ≠ s.unkPc →
      x = .cycle ∧ Fetches s ∧ ∃ why, decode (fetchedWord s) = .unknown why) ∧
    (statusLoadErr t.status ≠ statusLoadErr s.status → ∃ image, x = .load image ∧ 3584 < image.length)

/-- The idle end of 70_reset_and_hazards, whose consequence the spec marks derived: an engine that has ended idle at P
stays so: a CYCLE leaves all state unchanged except the opcode latch, which becomes the self-jump word. -/
def Obligations.IdleEndStaysIdle : Prop :=
  ∀ (s : State) (p : Word), EndedIdleAt s p →
    step s = .next { s with opcode := 0x1#4 ++ p.setWidth 12 } ∧
    EndedIdleAt { s with opcode := 0x1#4 ++ p.setWidth 12 } p

/-! ## Host transactions (10_state section 16) -/

/-- R49, R261: RESET sets every piece of state to its value of R46, from any state, halted or not, and is the only
transaction that clears HALT. -/
def Obligations.ResetFromAnyState : Prop :=
  ∀ s : State, (∃ t, transact .reset s = .next t ∧ ResetValues s.config t) ∧
    ∀ x t, s.halted = true → transact x s = .next t → t.halted = false → x = .reset

/-- R52, R229: LOAD copies an image of at most 3584 bytes to 0x200 and changes no other byte and nothing else; a
longer one is refused: LOAD_ERR is set and nothing else changes. -/
def Obligations.LoadCopiesOrRefuses : Prop :=
  ∀ (s : State) (image : List Byte),
    (image.length ≤ 3584 → response (.load image) s = .loadOk ∧
      ∃ t, transact (.load image) s = .next t ∧
        (∀ j b, image[j]? = some b → t.readByte (BitVec.ofNat 12 (0x200 + j)) = b) ∧
        UnchangedBut ((List.range image.length).map fun j => .byte (BitVec.ofNat 12 (0x200 + j))) s t) ∧
    (3584 < image.length → response (.load image) s = .loadTooLarge ∧
      ∃ t, transact (.load image) s = .next t ∧ statusLoadErr t.status = true ∧ t.halted = s.halted ∧
        statusCause t.status = statusCause s.status ∧ statusUnkSeen t.status = statusUnkSeen s.status ∧
        statusReserved t.status = statusReserved s.status ∧ UnchangedBut [.status] s t)

/-- R51: KEYS_WRITE sets every key to its bit and changes nothing else. -/
def Obligations.KeysWriteSetsTheTable : Prop :=
  ∀ (s : State) (k16 : BitVec 16), ∃ t, transact (.keysWrite k16) s = .next t ∧
    (∀ k, t.key k = k16.getLsbD k.toNat) ∧ ∀ p : Part, (∀ k, p ≠ .key k) → p.Same s t

/-- R53, R55, R56, with R40: the reading transactions change nothing and return what the rules say, the hardwired bits
of STATUS as 0 and its other bits as they stand. -/
def Obligations.ReadingTransactionsChangeNothing : Prop :=
  ∀ s : State,
    (transact .videoRead s = .next s ∧ ∃ v, response .videoRead s = .pixels v ∧ ∀ r c, (v.get r).get c = s.pixel r c) ∧
    (transact .sound s = .next s ∧ ∃ b, response .sound s = .soundOn b ∧ (b = true ↔ 0 < s.st.toNat)) ∧
    (transact .stateRead s = .next s ∧ ∃ r, response .stateRead s = .registers r ∧ r.dt = s.dt ∧ r.st = s.st ∧
      r.faultPc = s.faultPc ∧ r.faultOp = s.faultOp ∧ r.unkOp = s.unkOp ∧ r.unkPc = s.unkPc ∧
      statusReserved r.status = 0 ∧ statusHalt r.status = s.halted ∧ statusCause r.status = statusCause s.status ∧
      statusUnkSeen r.status = statusUnkSeen s.status ∧ statusLoadErr r.status = statusLoadErr s.status)
end

