-- ==== Sys2Proof/Laws/Decode.lean ====
section
/-! SUPPORT. Laws/Decode.lean: the fields of a word written in one of the shapes of spec 30_encoding R83, as numbers and as
fields, and the bytes of a word. -/

namespace Sys2Proof

/-- A concatenation as a number: the left part is the more significant (R11). -/
theorem toNat_append_eq {m n : Nat} (a : BitVec m) (b : BitVec n) :
    (a ++ b).toNat = a.toNat * 2 ^ n + b.toNat := by
  rw [BitVec.toNat_append, ← Nat.shiftLeft_add_eq_or_of_lt b.isLt, Nat.shiftLeft_eq]

/-- Shape NNN as a number. -/
theorem toNat_nnn (g : BitVec 4) (nnn : BitVec 12) : (g ++ nnn : Word).toNat = g.toNat * 4096 + nnn.toNat :=
  toNat_append_eq g nnn

/-- Shapes XKK and XS8 as a number. -/
theorem toNat_xkk (g x : BitVec 4) (kk : Byte) :
    (g ++ x ++ kk : Word).toNat = g.toNat * 4096 + x.toNat * 256 + kk.toNat :=
  (toNat_append_eq (g ++ x) kk).trans (by rw [toNat_append_eq g x]; omega)

/-- Shapes XYS and XYN as a number. -/
theorem toNat_xyn (g x y n : BitVec 4) :
    (g ++ x ++ y ++ n : Word).toNat = g.toNat * 4096 + x.toNat * 256 + y.toNat * 16 + n.toNat :=
  (toNat_append_eq (g ++ x ++ y) n).trans (by rw [toNat_append_eq (g ++ x) y, toNat_append_eq g x]; omega)

/-- A field as a number: the word shifted down and cut (R11). -/
theorem toNat_field (op : Word) (lo len : Nat) : (op.extractLsb' lo len).toNat = op.toNat / 2 ^ lo % 2 ^ len := by
  rw [BitVec.extractLsb'_toNat, Nat.shiftRight_eq_div_pow]

/-! Shape NNN -/

@[simp] theorem fieldG_nnn (g : BitVec 4) (nnn : BitVec 12) : fieldG (g ++ nnn) = g := by
  have := g.isLt; have := nnn.isLt
  exact BitVec.eq_of_toNat_eq (by rw [fieldG, toNat_field, toNat_nnn]; omega)

@[simp] theorem fieldNNN_nnn (g : BitVec 4) (nnn : BitVec 12) : fieldNNN (g ++ nnn) = nnn := by
  have := g.isLt; have := nnn.isLt
  exact BitVec.eq_of_toNat_eq (by rw [fieldNNN, toNat_field, toNat_nnn]; omega)

/-! Shapes XKK and XS8 -/

@[simp] theorem fieldG_xkk (g x : BitVec 4) (kk : Byte) : fieldG (g ++ x ++ kk) = g := by
  have := g.isLt; have := x.isLt; have := kk.isLt
  exact BitVec.eq_of_toNat_eq (by rw [fieldG, toNat_field, toNat_xkk]; omega)

@[simp] theorem fieldX_xkk (g x : BitVec 4) (kk : Byte) : fieldX (g ++ x ++ kk) = x := by
  have := g.isLt; have := x.isLt; have := kk.isLt
  exact BitVec.eq_of_toNat_eq (by rw [fieldX, toNat_field, toNat_xkk]; omega)

@[simp] theorem fieldKK_xkk (g x : BitVec 4) (kk : Byte) : fieldKK (g ++ x ++ kk) = kk := by
  have := g.isLt; have := x.isLt; have := kk.isLt
  exact BitVec.eq_of_toNat_eq (by rw [fieldKK, toNat_field, toNat_xkk]; omega)

/-! Shapes XYS and XYN -/

@[simp] theorem fieldG_xyn (g x y n : BitVec 4) : fieldG (g ++ x ++ y ++ n) = g := by
  have := g.isLt; have := x.isLt; have := y.isLt; have := n.isLt
  exact BitVec.eq_of_toNat_eq (by rw [fieldG, toNat_field, toNat_xyn]; omega)

@[simp] theorem fieldX_xyn (g x y n : BitVec 4) : fieldX (g ++ x ++ y ++ n) = x := by
  have := g.isLt; have := x.isLt; have := y.isLt; have := n.isLt
  exact BitVec.eq_of_toNat_eq (by rw [fieldX, toNat_field, toNat_xyn]; omega)

@[simp] theorem fieldY_xyn (g x y n : BitVec 4) : fieldY (g ++ x ++ y ++ n) = y := by
  have := g.isLt; have := x.isLt; have := y.isLt; have := n.isLt
  exact BitVec.eq_of_toNat_eq (by rw [fieldY, toNat_field, toNat_xyn]; omega)

@[simp] theorem fieldN_xyn (g x y n : BitVec 4) : fieldN (g ++ x ++ y ++ n) = n := by
  have := g.isLt; have := x.isLt; have := y.isLt; have := n.isLt
  exact BitVec.eq_of_toNat_eq (by rw [fieldN, toNat_field, toNat_xyn]; omega)

/-! A word from its fields -/

theorem word_eq_nnn (op : Word) : op = fieldG op ++ fieldNNN op := by
  have := op.isLt
  exact BitVec.eq_of_toNat_eq (by rw [toNat_nnn, fieldG, fieldNNN, toNat_field, toNat_field]; omega)

theorem word_eq_xkk (op : Word) : op = fieldG op ++ fieldX op ++ fieldKK op := by
  have := op.isLt
  exact BitVec.eq_of_toNat_eq (by rw [toNat_xkk, fieldG, fieldX, fieldKK, toNat_field, toNat_field, toNat_field]; omega)

theorem word_eq_xyn (op : Word) : op = fieldG op ++ fieldX op ++ fieldY op ++ fieldN op := by
  have := op.isLt
  exact BitVec.eq_of_toNat_eq (by
    rw [toNat_xyn, fieldG, fieldX, fieldY, fieldN, toNat_field, toNat_field, toNat_field, toNat_field]; omega)

/-! The decoder, group by group (R87 to R91), and what the groups' own decoders answer -/

theorem decode_group0 {w : Word} (h : fieldG w = 0x0#4) : decode w = decodeGroup0 w := by
  simp [decode, h]

theorem decode_group1 {w : Word} (h : fieldG w = 0x1#4) : decode w = .inst (.jp (fieldNNN w)) := by
  simp [decode, h]

theorem decode_group2 {w : Word} (h : fieldG w = 0x2#4) : decode w = .inst (.call (fieldNNN w)) := by
  simp [decode, h]

theorem decode_group3 {w : Word} (h : fieldG w = 0x3#4) : decode w = .inst (.seImm (fieldX w) (fieldKK w)) := by
  simp [decode, h]

theorem decode_group4 {w : Word} (h : fieldG w = 0x4#4) : decode w = .inst (.sneImm (fieldX w) (fieldKK w)) := by
  simp [decode, h]

theorem decode_group5 {w : Word} (h : fieldG w = 0x5#4) : decode w = if fieldN w = 0#4 then .inst (.seReg (fieldX w) (fieldY w)) else .unknown .group5 := by
  simp [decode, h]

theorem decode_group6 {w : Word} (h : fieldG w = 0x6#4) : decode w = .inst (.ldImm (fieldX w) (fieldKK w)) := by
  simp [decode, h]

theorem decode_group7 {w : Word} (h : fieldG w = 0x7#4) : decode w = .inst (.addImm (fieldX w) (fieldKK w)) := by
  simp [decode, h]

theorem decode_group8 {w : Word} (h : fieldG w = 0x8#4) : decode w = decodeGroup8 (fieldX w) (fieldY w) (fieldN w) := by
  simp [decode, h]

theorem decode_group9 {w : Word} (h : fieldG w = 0x9#4) : decode w = if fieldN w = 0#4 then .inst (.sneReg (fieldX w) (fieldY w)) else .unknown .group9 := by
  simp [decode, h]

theorem decode_groupA {w : Word} (h : fieldG w = 0xA#4) : decode w = .inst (.ldI (fieldNNN w)) := by
  simp [decode, h]

theorem decode_groupB {w : Word} (h : fieldG w = 0xB#4) : decode w = .inst (.jpV0 (fieldNNN w)) := by
  simp [decode, h]

theorem decode_groupC {w : Word} (h : fieldG w = 0xC#4) : decode w = .inst (.rnd (fieldX w) (fieldKK w)) := by
  simp [decode, h]

theorem decode_groupD {w : Word} (h : fieldG w = 0xD#4) : decode w = .inst (.drw (fieldX w) (fieldY w) (fieldN w)) := by
  simp [decode, h]

theorem decode_groupE {w : Word} (h : fieldG w = 0xE#4) : decode w = decodeGroupE (fieldX w) (fieldKK w) := by
  simp [decode, h]

theorem decode_groupF {w : Word} (h : fieldG w = 0xF#4) : decode w = decodeGroupF (fieldX w) (fieldKK w) := by
  simp [decode, h]

/-- Every primary group is one of the sixteen. -/
theorem group_cases (g : BitVec 4) :
    (g = 0x0#4 ∨ g = 0x1#4 ∨ g = 0x2#4 ∨ g = 0x3#4) ∨ (g = 0x4#4 ∨ g = 0x5#4 ∨ g = 0x6#4 ∨ g = 0x7#4) ∨
    (g = 0x8#4 ∨ g = 0x9#4 ∨ g = 0xA#4 ∨ g = 0xB#4) ∨ (g = 0xC#4 ∨ g = 0xD#4 ∨ g = 0xE#4 ∨ g = 0xF#4) := by
  revert g; decide

/-- Group 0's instructions encode to the word they were read from. -/
theorem decodeGroup0_inst {w : Word} {i : Instr} (h : decodeGroup0 w = .inst i) : encode i = w := by
  unfold decodeGroup0 at h
  repeat' split at h
  all_goals first | (cases h; subst_vars; rfl) | cases h

theorem decodeGroup8_inst {x y n : BitVec 4} {i : Instr} (h : decodeGroup8 x y n = .inst i) :
    encode i = 0x8#4 ++ x ++ y ++ n := by
  unfold decodeGroup8 at h
  repeat' split at h
  all_goals first | (cases h; subst_vars; rfl) | cases h

theorem decodeGroupE_inst {x : Reg} {kk : Byte} {i : Instr} (h : decodeGroupE x kk = .inst i) :
    encode i = 0xE#4 ++ x ++ kk := by
  unfold decodeGroupE at h
  repeat' split at h
  all_goals first | (cases h; subst_vars; rfl) | cases h

theorem decodeGroupF_inst {x : Reg} {kk : Byte} {i : Instr} (h : decodeGroupF x kk = .inst i) :
    encode i = 0xF#4 ++ x ++ kk := by
  unfold decodeGroupF at h
  repeat' split at h
  all_goals first | (cases h; subst_vars; rfl) | cases h

/-! Bytes of a word -/

@[simp] theorem wordOfBytes_high_low (w : Word) : wordOfBytes (highByte w) (lowByte w) = w := by
  have := w.isLt
  have h : (wordOfBytes (highByte w) (lowByte w)).toNat = (highByte w).toNat * 256 + (lowByte w).toNat :=
    toNat_append_eq (highByte w) (lowByte w)
  exact BitVec.eq_of_toNat_eq (by rw [h, highByte, lowByte, toNat_field, toNat_field]; omega)

/-- The encoder's bytes are read back as the encoded word, and the rest of the stream stays. -/
theorem decodeBytes_encodeBytes (i : Instr) (rest : List Byte) :
    decodeBytes (encodeBytes i ++ rest) = (decode (encode i), rest) := by
  simp [encodeBytes, decodeBytes]

/-- The decoder consumes exactly two bytes of any stream that has them (R94). -/
theorem decodeBytes_two (hi lo : Byte) (rest : List Byte) :
    decodeBytes (hi :: lo :: rest) = (decode (wordOfBytes hi lo), rest) := rfl

end Sys2Proof
end

