-- ==== Sys2Proof/Laws/State.lean ====
section
/-! SUPPORT. Laws/State.lean: for each update of State, every field it leaves (or sets), true by rfl, and the same for the
accessors getV, readByte, pixel, key, stackAt, halted, lowestKey and fetch16. -/

namespace Sys2Proof.Machine

/-! `State.setV` -/

@[simp] theorem State.setV_i (s : State) (x : Reg) (b : Byte) : (s.setV x b).i = s.i := rfl
@[simp] theorem State.setV_pc (s : State) (x : Reg) (b : Byte) : (s.setV x b).pc = s.pc := rfl
@[simp] theorem State.setV_sp (s : State) (x : Reg) (b : Byte) : (s.setV x b).sp = s.sp := rfl
@[simp] theorem State.setV_stack (s : State) (x : Reg) (b : Byte) : (s.setV x b).stack = s.stack := rfl
@[simp] theorem State.setV_dt (s : State) (x : Reg) (b : Byte) : (s.setV x b).dt = s.dt := rfl
@[simp] theorem State.setV_st (s : State) (x : Reg) (b : Byte) : (s.setV x b).st = s.st := rfl
@[simp] theorem State.setV_mem (s : State) (x : Reg) (b : Byte) : (s.setV x b).mem = s.mem := rfl
@[simp] theorem State.setV_video (s : State) (x : Reg) (b : Byte) : (s.setV x b).video = s.video := rfl
@[simp] theorem State.setV_keys (s : State) (x : Reg) (b : Byte) : (s.setV x b).keys = s.keys := rfl
@[simp] theorem State.setV_opcode (s : State) (x : Reg) (b : Byte) : (s.setV x b).opcode = s.opcode := rfl
@[simp] theorem State.setV_status (s : State) (x : Reg) (b : Byte) : (s.setV x b).status = s.status := rfl
@[simp] theorem State.setV_faultPc (s : State) (x : Reg) (b : Byte) : (s.setV x b).faultPc = s.faultPc := rfl
@[simp] theorem State.setV_faultOp (s : State) (x : Reg) (b : Byte) : (s.setV x b).faultOp = s.faultOp := rfl
@[simp] theorem State.setV_unkOp (s : State) (x : Reg) (b : Byte) : (s.setV x b).unkOp = s.unkOp := rfl
@[simp] theorem State.setV_unkPc (s : State) (x : Reg) (b : Byte) : (s.setV x b).unkPc = s.unkPc := rfl
@[simp] theorem State.setV_config (s : State) (x : Reg) (b : Byte) : (s.setV x b).config = s.config := rfl
@[simp] theorem State.setV_draws (s : State) (x : Reg) (b : Byte) : (s.setV x b).draws = s.draws := rfl
@[simp] theorem State.readByte_setV (s : State) (x : Reg) (b : Byte) (a' : Addr) : (s.setV x b).readByte a' = s.readByte a' := rfl
@[simp] theorem State.pixel_setV (s : State) (x : Reg) (b : Byte) (r' : Fin 32) (c' : Fin 64) : (s.setV x b).pixel r' c' = s.pixel r' c' := rfl
@[simp] theorem State.key_setV (s : State) (x : Reg) (b : Byte) (k : BitVec 4) : (s.setV x b).key k = s.key k := rfl
@[simp] theorem State.stackAt_setV (s : State) (x : Reg) (b : Byte) (k : Fin 16) : (s.setV x b).stackAt k = s.stackAt k := rfl
@[simp] theorem State.halted_setV (s : State) (x : Reg) (b : Byte) : (s.setV x b).halted = s.halted := rfl
@[simp] theorem State.lowestKey_setV (s : State) (x : Reg) (b : Byte) : (s.setV x b).lowestKey = s.lowestKey := rfl
@[simp] theorem State.fetch16_setV (s : State) (x : Reg) (b : Byte) (a' : Word) : (s.setV x b).fetch16 a' = s.fetch16 a' := rfl

/-! `State.setFlagAndV` -/

@[simp] theorem State.setFlagAndV_i (s : State) (x : Reg) (f r : Byte) : (s.setFlagAndV x f r).i = s.i := rfl
@[simp] theorem State.setFlagAndV_pc (s : State) (x : Reg) (f r : Byte) : (s.setFlagAndV x f r).pc = s.pc := rfl
@[simp] theorem State.setFlagAndV_sp (s : State) (x : Reg) (f r : Byte) : (s.setFlagAndV x f r).sp = s.sp := rfl
@[simp] theorem State.setFlagAndV_stack (s : State) (x : Reg) (f r : Byte) : (s.setFlagAndV x f r).stack = s.stack := rfl
@[simp] theorem State.setFlagAndV_dt (s : State) (x : Reg) (f r : Byte) : (s.setFlagAndV x f r).dt = s.dt := rfl
@[simp] theorem State.setFlagAndV_st (s : State) (x : Reg) (f r : Byte) : (s.setFlagAndV x f r).st = s.st := rfl
@[simp] theorem State.setFlagAndV_mem (s : State) (x : Reg) (f r : Byte) : (s.setFlagAndV x f r).mem = s.mem := rfl
@[simp] theorem State.setFlagAndV_video (s : State) (x : Reg) (f r : Byte) : (s.setFlagAndV x f r).video = s.video := rfl
@[simp] theorem State.setFlagAndV_keys (s : State) (x : Reg) (f r : Byte) : (s.setFlagAndV x f r).keys = s.keys := rfl
@[simp] theorem State.setFlagAndV_opcode (s : State) (x : Reg) (f r : Byte) : (s.setFlagAndV x f r).opcode = s.opcode := rfl
@[simp] theorem State.setFlagAndV_status (s : State) (x : Reg) (f r : Byte) : (s.setFlagAndV x f r).status = s.status := rfl
@[simp] theorem State.setFlagAndV_faultPc (s : State) (x : Reg) (f r : Byte) : (s.setFlagAndV x f r).faultPc = s.faultPc := rfl
@[simp] theorem State.setFlagAndV_faultOp (s : State) (x : Reg) (f r : Byte) : (s.setFlagAndV x f r).faultOp = s.faultOp := rfl
@[simp] theorem State.setFlagAndV_unkOp (s : State) (x : Reg) (f r : Byte) : (s.setFlagAndV x f r).unkOp = s.unkOp := rfl
@[simp] theorem State.setFlagAndV_unkPc (s : State) (x : Reg) (f r : Byte) : (s.setFlagAndV x f r).unkPc = s.unkPc := rfl
@[simp] theorem State.setFlagAndV_config (s : State) (x : Reg) (f r : Byte) : (s.setFlagAndV x f r).config = s.config := rfl
@[simp] theorem State.setFlagAndV_draws (s : State) (x : Reg) (f r : Byte) : (s.setFlagAndV x f r).draws = s.draws := rfl
@[simp] theorem State.readByte_setFlagAndV (s : State) (x : Reg) (f r : Byte) (a' : Addr) : (s.setFlagAndV x f r).readByte a' = s.readByte a' := rfl
@[simp] theorem State.pixel_setFlagAndV (s : State) (x : Reg) (f r : Byte) (r' : Fin 32) (c' : Fin 64) : (s.setFlagAndV x f r).pixel r' c' = s.pixel r' c' := rfl
@[simp] theorem State.key_setFlagAndV (s : State) (x : Reg) (f r : Byte) (k : BitVec 4) : (s.setFlagAndV x f r).key k = s.key k := rfl
@[simp] theorem State.stackAt_setFlagAndV (s : State) (x : Reg) (f r : Byte) (k : Fin 16) : (s.setFlagAndV x f r).stackAt k = s.stackAt k := rfl
@[simp] theorem State.halted_setFlagAndV (s : State) (x : Reg) (f r : Byte) : (s.setFlagAndV x f r).halted = s.halted := rfl
@[simp] theorem State.lowestKey_setFlagAndV (s : State) (x : Reg) (f r : Byte) : (s.setFlagAndV x f r).lowestKey = s.lowestKey := rfl
@[simp] theorem State.fetch16_setFlagAndV (s : State) (x : Reg) (f r : Byte) (a' : Word) : (s.setFlagAndV x f r).fetch16 a' = s.fetch16 a' := rfl

/-! `State.setPc` -/

@[simp] theorem State.setPc_v (s : State) (w : Word) : (s.setPc w).v = s.v := rfl
@[simp] theorem State.setPc_i (s : State) (w : Word) : (s.setPc w).i = s.i := rfl
@[simp] theorem State.setPc_pc (s : State) (w : Word) : (s.setPc w).pc = w := rfl
@[simp] theorem State.setPc_sp (s : State) (w : Word) : (s.setPc w).sp = s.sp := rfl
@[simp] theorem State.setPc_stack (s : State) (w : Word) : (s.setPc w).stack = s.stack := rfl
@[simp] theorem State.setPc_dt (s : State) (w : Word) : (s.setPc w).dt = s.dt := rfl
@[simp] theorem State.setPc_st (s : State) (w : Word) : (s.setPc w).st = s.st := rfl
@[simp] theorem State.setPc_mem (s : State) (w : Word) : (s.setPc w).mem = s.mem := rfl
@[simp] theorem State.setPc_video (s : State) (w : Word) : (s.setPc w).video = s.video := rfl
@[simp] theorem State.setPc_keys (s : State) (w : Word) : (s.setPc w).keys = s.keys := rfl
@[simp] theorem State.setPc_opcode (s : State) (w : Word) : (s.setPc w).opcode = s.opcode := rfl
@[simp] theorem State.setPc_status (s : State) (w : Word) : (s.setPc w).status = s.status := rfl
@[simp] theorem State.setPc_faultPc (s : State) (w : Word) : (s.setPc w).faultPc = s.faultPc := rfl
@[simp] theorem State.setPc_faultOp (s : State) (w : Word) : (s.setPc w).faultOp = s.faultOp := rfl
@[simp] theorem State.setPc_unkOp (s : State) (w : Word) : (s.setPc w).unkOp = s.unkOp := rfl
@[simp] theorem State.setPc_unkPc (s : State) (w : Word) : (s.setPc w).unkPc = s.unkPc := rfl
@[simp] theorem State.setPc_config (s : State) (w : Word) : (s.setPc w).config = s.config := rfl
@[simp] theorem State.setPc_draws (s : State) (w : Word) : (s.setPc w).draws = s.draws := rfl
@[simp] theorem State.getV_setPc (s : State) (w : Word) (x' : Reg) : (s.setPc w).getV x' = s.getV x' := rfl
@[simp] theorem State.readByte_setPc (s : State) (w : Word) (a' : Addr) : (s.setPc w).readByte a' = s.readByte a' := rfl
@[simp] theorem State.pixel_setPc (s : State) (w : Word) (r' : Fin 32) (c' : Fin 64) : (s.setPc w).pixel r' c' = s.pixel r' c' := rfl
@[simp] theorem State.key_setPc (s : State) (w : Word) (k : BitVec 4) : (s.setPc w).key k = s.key k := rfl
@[simp] theorem State.stackAt_setPc (s : State) (w : Word) (k : Fin 16) : (s.setPc w).stackAt k = s.stackAt k := rfl
@[simp] theorem State.halted_setPc (s : State) (w : Word) : (s.setPc w).halted = s.halted := rfl
@[simp] theorem State.lowestKey_setPc (s : State) (w : Word) : (s.setPc w).lowestKey = s.lowestKey := rfl
@[simp] theorem State.fetch16_setPc (s : State) (w : Word) (a' : Word) : (s.setPc w).fetch16 a' = s.fetch16 a' := rfl

/-! `State.setI` -/

@[simp] theorem State.setI_v (s : State) (w : Word) : (s.setI w).v = s.v := rfl
@[simp] theorem State.setI_i (s : State) (w : Word) : (s.setI w).i = w := rfl
@[simp] theorem State.setI_pc (s : State) (w : Word) : (s.setI w).pc = s.pc := rfl
@[simp] theorem State.setI_sp (s : State) (w : Word) : (s.setI w).sp = s.sp := rfl
@[simp] theorem State.setI_stack (s : State) (w : Word) : (s.setI w).stack = s.stack := rfl
@[simp] theorem State.setI_dt (s : State) (w : Word) : (s.setI w).dt = s.dt := rfl
@[simp] theorem State.setI_st (s : State) (w : Word) : (s.setI w).st = s.st := rfl
@[simp] theorem State.setI_mem (s : State) (w : Word) : (s.setI w).mem = s.mem := rfl
@[simp] theorem State.setI_video (s : State) (w : Word) : (s.setI w).video = s.video := rfl
@[simp] theorem State.setI_keys (s : State) (w : Word) : (s.setI w).keys = s.keys := rfl
@[simp] theorem State.setI_opcode (s : State) (w : Word) : (s.setI w).opcode = s.opcode := rfl
@[simp] theorem State.setI_status (s : State) (w : Word) : (s.setI w).status = s.status := rfl
@[simp] theorem State.setI_faultPc (s : State) (w : Word) : (s.setI w).faultPc = s.faultPc := rfl
@[simp] theorem State.setI_faultOp (s : State) (w : Word) : (s.setI w).faultOp = s.faultOp := rfl
@[simp] theorem State.setI_unkOp (s : State) (w : Word) : (s.setI w).unkOp = s.unkOp := rfl
@[simp] theorem State.setI_unkPc (s : State) (w : Word) : (s.setI w).unkPc = s.unkPc := rfl
@[simp] theorem State.setI_config (s : State) (w : Word) : (s.setI w).config = s.config := rfl
@[simp] theorem State.setI_draws (s : State) (w : Word) : (s.setI w).draws = s.draws := rfl
@[simp] theorem State.getV_setI (s : State) (w : Word) (x' : Reg) : (s.setI w).getV x' = s.getV x' := rfl
@[simp] theorem State.readByte_setI (s : State) (w : Word) (a' : Addr) : (s.setI w).readByte a' = s.readByte a' := rfl
@[simp] theorem State.pixel_setI (s : State) (w : Word) (r' : Fin 32) (c' : Fin 64) : (s.setI w).pixel r' c' = s.pixel r' c' := rfl
@[simp] theorem State.key_setI (s : State) (w : Word) (k : BitVec 4) : (s.setI w).key k = s.key k := rfl
@[simp] theorem State.stackAt_setI (s : State) (w : Word) (k : Fin 16) : (s.setI w).stackAt k = s.stackAt k := rfl
@[simp] theorem State.halted_setI (s : State) (w : Word) : (s.setI w).halted = s.halted := rfl
@[simp] theorem State.lowestKey_setI (s : State) (w : Word) : (s.setI w).lowestKey = s.lowestKey := rfl
@[simp] theorem State.fetch16_setI (s : State) (w : Word) (a' : Word) : (s.setI w).fetch16 a' = s.fetch16 a' := rfl

/-! `State.setDt` -/

@[simp] theorem State.setDt_v (s : State) (b : Byte) : (s.setDt b).v = s.v := rfl
@[simp] theorem State.setDt_i (s : State) (b : Byte) : (s.setDt b).i = s.i := rfl
@[simp] theorem State.setDt_pc (s : State) (b : Byte) : (s.setDt b).pc = s.pc := rfl
@[simp] theorem State.setDt_sp (s : State) (b : Byte) : (s.setDt b).sp = s.sp := rfl
@[simp] theorem State.setDt_stack (s : State) (b : Byte) : (s.setDt b).stack = s.stack := rfl
@[simp] theorem State.setDt_dt (s : State) (b : Byte) : (s.setDt b).dt = b := rfl
@[simp] theorem State.setDt_st (s : State) (b : Byte) : (s.setDt b).st = s.st := rfl
@[simp] theorem State.setDt_mem (s : State) (b : Byte) : (s.setDt b).mem = s.mem := rfl
@[simp] theorem State.setDt_video (s : State) (b : Byte) : (s.setDt b).video = s.video := rfl
@[simp] theorem State.setDt_keys (s : State) (b : Byte) : (s.setDt b).keys = s.keys := rfl
@[simp] theorem State.setDt_opcode (s : State) (b : Byte) : (s.setDt b).opcode = s.opcode := rfl
@[simp] theorem State.setDt_status (s : State) (b : Byte) : (s.setDt b).status = s.status := rfl
@[simp] theorem State.setDt_faultPc (s : State) (b : Byte) : (s.setDt b).faultPc = s.faultPc := rfl
@[simp] theorem State.setDt_faultOp (s : State) (b : Byte) : (s.setDt b).faultOp = s.faultOp := rfl
@[simp] theorem State.setDt_unkOp (s : State) (b : Byte) : (s.setDt b).unkOp = s.unkOp := rfl
@[simp] theorem State.setDt_unkPc (s : State) (b : Byte) : (s.setDt b).unkPc = s.unkPc := rfl
@[simp] theorem State.setDt_config (s : State) (b : Byte) : (s.setDt b).config = s.config := rfl
@[simp] theorem State.setDt_draws (s : State) (b : Byte) : (s.setDt b).draws = s.draws := rfl
@[simp] theorem State.getV_setDt (s : State) (b : Byte) (x' : Reg) : (s.setDt b).getV x' = s.getV x' := rfl
@[simp] theorem State.readByte_setDt (s : State) (b : Byte) (a' : Addr) : (s.setDt b).readByte a' = s.readByte a' := rfl
@[simp] theorem State.pixel_setDt (s : State) (b : Byte) (r' : Fin 32) (c' : Fin 64) : (s.setDt b).pixel r' c' = s.pixel r' c' := rfl
@[simp] theorem State.key_setDt (s : State) (b : Byte) (k : BitVec 4) : (s.setDt b).key k = s.key k := rfl
@[simp] theorem State.stackAt_setDt (s : State) (b : Byte) (k : Fin 16) : (s.setDt b).stackAt k = s.stackAt k := rfl
@[simp] theorem State.halted_setDt (s : State) (b : Byte) : (s.setDt b).halted = s.halted := rfl
@[simp] theorem State.lowestKey_setDt (s : State) (b : Byte) : (s.setDt b).lowestKey = s.lowestKey := rfl
@[simp] theorem State.fetch16_setDt (s : State) (b : Byte) (a' : Word) : (s.setDt b).fetch16 a' = s.fetch16 a' := rfl

/-! `State.setSt` -/

@[simp] theorem State.setSt_v (s : State) (b : Byte) : (s.setSt b).v = s.v := rfl
@[simp] theorem State.setSt_i (s : State) (b : Byte) : (s.setSt b).i = s.i := rfl
@[simp] theorem State.setSt_pc (s : State) (b : Byte) : (s.setSt b).pc = s.pc := rfl
@[simp] theorem State.setSt_sp (s : State) (b : Byte) : (s.setSt b).sp = s.sp := rfl
@[simp] theorem State.setSt_stack (s : State) (b : Byte) : (s.setSt b).stack = s.stack := rfl
@[simp] theorem State.setSt_dt (s : State) (b : Byte) : (s.setSt b).dt = s.dt := rfl
@[simp] theorem State.setSt_st (s : State) (b : Byte) : (s.setSt b).st = b := rfl
@[simp] theorem State.setSt_mem (s : State) (b : Byte) : (s.setSt b).mem = s.mem := rfl
@[simp] theorem State.setSt_video (s : State) (b : Byte) : (s.setSt b).video = s.video := rfl
@[simp] theorem State.setSt_keys (s : State) (b : Byte) : (s.setSt b).keys = s.keys := rfl
@[simp] theorem State.setSt_opcode (s : State) (b : Byte) : (s.setSt b).opcode = s.opcode := rfl
@[simp] theorem State.setSt_status (s : State) (b : Byte) : (s.setSt b).status = s.status := rfl
@[simp] theorem State.setSt_faultPc (s : State) (b : Byte) : (s.setSt b).faultPc = s.faultPc := rfl
@[simp] theorem State.setSt_faultOp (s : State) (b : Byte) : (s.setSt b).faultOp = s.faultOp := rfl
@[simp] theorem State.setSt_unkOp (s : State) (b : Byte) : (s.setSt b).unkOp = s.unkOp := rfl
@[simp] theorem State.setSt_unkPc (s : State) (b : Byte) : (s.setSt b).unkPc = s.unkPc := rfl
@[simp] theorem State.setSt_config (s : State) (b : Byte) : (s.setSt b).config = s.config := rfl
@[simp] theorem State.setSt_draws (s : State) (b : Byte) : (s.setSt b).draws = s.draws := rfl
@[simp] theorem State.getV_setSt (s : State) (b : Byte) (x' : Reg) : (s.setSt b).getV x' = s.getV x' := rfl
@[simp] theorem State.readByte_setSt (s : State) (b : Byte) (a' : Addr) : (s.setSt b).readByte a' = s.readByte a' := rfl
@[simp] theorem State.pixel_setSt (s : State) (b : Byte) (r' : Fin 32) (c' : Fin 64) : (s.setSt b).pixel r' c' = s.pixel r' c' := rfl
@[simp] theorem State.key_setSt (s : State) (b : Byte) (k : BitVec 4) : (s.setSt b).key k = s.key k := rfl
@[simp] theorem State.stackAt_setSt (s : State) (b : Byte) (k : Fin 16) : (s.setSt b).stackAt k = s.stackAt k := rfl
@[simp] theorem State.halted_setSt (s : State) (b : Byte) : (s.setSt b).halted = s.halted := rfl
@[simp] theorem State.lowestKey_setSt (s : State) (b : Byte) : (s.setSt b).lowestKey = s.lowestKey := rfl
@[simp] theorem State.fetch16_setSt (s : State) (b : Byte) (a' : Word) : (s.setSt b).fetch16 a' = s.fetch16 a' := rfl

/-! `State.setOpcode` -/

@[simp] theorem State.setOpcode_v (s : State) (w : Word) : (s.setOpcode w).v = s.v := rfl
@[simp] theorem State.setOpcode_i (s : State) (w : Word) : (s.setOpcode w).i = s.i := rfl
@[simp] theorem State.setOpcode_pc (s : State) (w : Word) : (s.setOpcode w).pc = s.pc := rfl
@[simp] theorem State.setOpcode_sp (s : State) (w : Word) : (s.setOpcode w).sp = s.sp := rfl
@[simp] theorem State.setOpcode_stack (s : State) (w : Word) : (s.setOpcode w).stack = s.stack := rfl
@[simp] theorem State.setOpcode_dt (s : State) (w : Word) : (s.setOpcode w).dt = s.dt := rfl
@[simp] theorem State.setOpcode_st (s : State) (w : Word) : (s.setOpcode w).st = s.st := rfl
@[simp] theorem State.setOpcode_mem (s : State) (w : Word) : (s.setOpcode w).mem = s.mem := rfl
@[simp] theorem State.setOpcode_video (s : State) (w : Word) : (s.setOpcode w).video = s.video := rfl
@[simp] theorem State.setOpcode_keys (s : State) (w : Word) : (s.setOpcode w).keys = s.keys := rfl
@[simp] theorem State.setOpcode_opcode (s : State) (w : Word) : (s.setOpcode w).opcode = w := rfl
@[simp] theorem State.setOpcode_status (s : State) (w : Word) : (s.setOpcode w).status = s.status := rfl
@[simp] theorem State.setOpcode_faultPc (s : State) (w : Word) : (s.setOpcode w).faultPc = s.faultPc := rfl
@[simp] theorem State.setOpcode_faultOp (s : State) (w : Word) : (s.setOpcode w).faultOp = s.faultOp := rfl
@[simp] theorem State.setOpcode_unkOp (s : State) (w : Word) : (s.setOpcode w).unkOp = s.unkOp := rfl
@[simp] theorem State.setOpcode_unkPc (s : State) (w : Word) : (s.setOpcode w).unkPc = s.unkPc := rfl
@[simp] theorem State.setOpcode_config (s : State) (w : Word) : (s.setOpcode w).config = s.config := rfl
@[simp] theorem State.setOpcode_draws (s : State) (w : Word) : (s.setOpcode w).draws = s.draws := rfl
@[simp] theorem State.getV_setOpcode (s : State) (w : Word) (x' : Reg) : (s.setOpcode w).getV x' = s.getV x' := rfl
@[simp] theorem State.readByte_setOpcode (s : State) (w : Word) (a' : Addr) : (s.setOpcode w).readByte a' = s.readByte a' := rfl
@[simp] theorem State.pixel_setOpcode (s : State) (w : Word) (r' : Fin 32) (c' : Fin 64) : (s.setOpcode w).pixel r' c' = s.pixel r' c' := rfl
@[simp] theorem State.key_setOpcode (s : State) (w : Word) (k : BitVec 4) : (s.setOpcode w).key k = s.key k := rfl
@[simp] theorem State.stackAt_setOpcode (s : State) (w : Word) (k : Fin 16) : (s.setOpcode w).stackAt k = s.stackAt k := rfl
@[simp] theorem State.halted_setOpcode (s : State) (w : Word) : (s.setOpcode w).halted = s.halted := rfl
@[simp] theorem State.lowestKey_setOpcode (s : State) (w : Word) : (s.setOpcode w).lowestKey = s.lowestKey := rfl
@[simp] theorem State.fetch16_setOpcode (s : State) (w : Word) (a' : Word) : (s.setOpcode w).fetch16 a' = s.fetch16 a' := rfl

/-! `State.nextDraw` -/

@[simp] theorem State.nextDraw_v (s : State) : s.nextDraw.v = s.v := rfl
@[simp] theorem State.nextDraw_i (s : State) : s.nextDraw.i = s.i := rfl
@[simp] theorem State.nextDraw_pc (s : State) : s.nextDraw.pc = s.pc := rfl
@[simp] theorem State.nextDraw_sp (s : State) : s.nextDraw.sp = s.sp := rfl
@[simp] theorem State.nextDraw_stack (s : State) : s.nextDraw.stack = s.stack := rfl
@[simp] theorem State.nextDraw_dt (s : State) : s.nextDraw.dt = s.dt := rfl
@[simp] theorem State.nextDraw_st (s : State) : s.nextDraw.st = s.st := rfl
@[simp] theorem State.nextDraw_mem (s : State) : s.nextDraw.mem = s.mem := rfl
@[simp] theorem State.nextDraw_video (s : State) : s.nextDraw.video = s.video := rfl
@[simp] theorem State.nextDraw_keys (s : State) : s.nextDraw.keys = s.keys := rfl
@[simp] theorem State.nextDraw_opcode (s : State) : s.nextDraw.opcode = s.opcode := rfl
@[simp] theorem State.nextDraw_status (s : State) : s.nextDraw.status = s.status := rfl
@[simp] theorem State.nextDraw_faultPc (s : State) : s.nextDraw.faultPc = s.faultPc := rfl
@[simp] theorem State.nextDraw_faultOp (s : State) : s.nextDraw.faultOp = s.faultOp := rfl
@[simp] theorem State.nextDraw_unkOp (s : State) : s.nextDraw.unkOp = s.unkOp := rfl
@[simp] theorem State.nextDraw_unkPc (s : State) : s.nextDraw.unkPc = s.unkPc := rfl
@[simp] theorem State.nextDraw_config (s : State) : s.nextDraw.config = s.config := rfl
@[simp] theorem State.nextDraw_draws (s : State) : s.nextDraw.draws = s.draws + 1 := rfl
@[simp] theorem State.getV_nextDraw (s : State) (x' : Reg) : s.nextDraw.getV x' = s.getV x' := rfl
@[simp] theorem State.readByte_nextDraw (s : State) (a' : Addr) : s.nextDraw.readByte a' = s.readByte a' := rfl
@[simp] theorem State.pixel_nextDraw (s : State) (r' : Fin 32) (c' : Fin 64) : s.nextDraw.pixel r' c' = s.pixel r' c' := rfl
@[simp] theorem State.key_nextDraw (s : State) (k : BitVec 4) : s.nextDraw.key k = s.key k := rfl
@[simp] theorem State.stackAt_nextDraw (s : State) (k : Fin 16) : s.nextDraw.stackAt k = s.stackAt k := rfl
@[simp] theorem State.halted_nextDraw (s : State) : s.nextDraw.halted = s.halted := rfl
@[simp] theorem State.lowestKey_nextDraw (s : State) : s.nextDraw.lowestKey = s.lowestKey := rfl
@[simp] theorem State.fetch16_nextDraw (s : State) (a' : Word) : s.nextDraw.fetch16 a' = s.fetch16 a' := rfl

/-! `State.writeByte` -/

@[simp] theorem State.writeByte_v (s : State) (a : Addr) (b : Byte) : (s.writeByte a b).v = s.v := rfl
@[simp] theorem State.writeByte_i (s : State) (a : Addr) (b : Byte) : (s.writeByte a b).i = s.i := rfl
@[simp] theorem State.writeByte_pc (s : State) (a : Addr) (b : Byte) : (s.writeByte a b).pc = s.pc := rfl
@[simp] theorem State.writeByte_sp (s : State) (a : Addr) (b : Byte) : (s.writeByte a b).sp = s.sp := rfl
@[simp] theorem State.writeByte_stack (s : State) (a : Addr) (b : Byte) : (s.writeByte a b).stack = s.stack := rfl
@[simp] theorem State.writeByte_dt (s : State) (a : Addr) (b : Byte) : (s.writeByte a b).dt = s.dt := rfl
@[simp] theorem State.writeByte_st (s : State) (a : Addr) (b : Byte) : (s.writeByte a b).st = s.st := rfl
@[simp] theorem State.writeByte_video (s : State) (a : Addr) (b : Byte) : (s.writeByte a b).video = s.video := rfl
@[simp] theorem State.writeByte_keys (s : State) (a : Addr) (b : Byte) : (s.writeByte a b).keys = s.keys := rfl
@[simp] theorem State.writeByte_opcode (s : State) (a : Addr) (b : Byte) : (s.writeByte a b).opcode = s.opcode := rfl
@[simp] theorem State.writeByte_status (s : State) (a : Addr) (b : Byte) : (s.writeByte a b).status = s.status := rfl
@[simp] theorem State.writeByte_faultPc (s : State) (a : Addr) (b : Byte) : (s.writeByte a b).faultPc = s.faultPc := rfl
@[simp] theorem State.writeByte_faultOp (s : State) (a : Addr) (b : Byte) : (s.writeByte a b).faultOp = s.faultOp := rfl
@[simp] theorem State.writeByte_unkOp (s : State) (a : Addr) (b : Byte) : (s.writeByte a b).unkOp = s.unkOp := rfl
@[simp] theorem State.writeByte_unkPc (s : State) (a : Addr) (b : Byte) : (s.writeByte a b).unkPc = s.unkPc := rfl
@[simp] theorem State.writeByte_config (s : State) (a : Addr) (b : Byte) : (s.writeByte a b).config = s.config := rfl
@[simp] theorem State.writeByte_draws (s : State) (a : Addr) (b : Byte) : (s.writeByte a b).draws = s.draws := rfl
@[simp] theorem State.getV_writeByte (s : State) (a : Addr) (b : Byte) (x' : Reg) : (s.writeByte a b).getV x' = s.getV x' := rfl
@[simp] theorem State.pixel_writeByte (s : State) (a : Addr) (b : Byte) (r' : Fin 32) (c' : Fin 64) : (s.writeByte a b).pixel r' c' = s.pixel r' c' := rfl
@[simp] theorem State.key_writeByte (s : State) (a : Addr) (b : Byte) (k : BitVec 4) : (s.writeByte a b).key k = s.key k := rfl
@[simp] theorem State.stackAt_writeByte (s : State) (a : Addr) (b : Byte) (k : Fin 16) : (s.writeByte a b).stackAt k = s.stackAt k := rfl
@[simp] theorem State.halted_writeByte (s : State) (a : Addr) (b : Byte) : (s.writeByte a b).halted = s.halted := rfl
@[simp] theorem State.lowestKey_writeByte (s : State) (a : Addr) (b : Byte) : (s.writeByte a b).lowestKey = s.lowestKey := rfl

/-! `State.setPixel` -/

@[simp] theorem State.setPixel_v (s : State) (r : Fin 32) (c : Fin 64) (b : Bool) : (s.setPixel r c b).v = s.v := rfl
@[simp] theorem State.setPixel_i (s : State) (r : Fin 32) (c : Fin 64) (b : Bool) : (s.setPixel r c b).i = s.i := rfl
@[simp] theorem State.setPixel_pc (s : State) (r : Fin 32) (c : Fin 64) (b : Bool) : (s.setPixel r c b).pc = s.pc := rfl
@[simp] theorem State.setPixel_sp (s : State) (r : Fin 32) (c : Fin 64) (b : Bool) : (s.setPixel r c b).sp = s.sp := rfl
@[simp] theorem State.setPixel_stack (s : State) (r : Fin 32) (c : Fin 64) (b : Bool) : (s.setPixel r c b).stack = s.stack := rfl
@[simp] theorem State.setPixel_dt (s : State) (r : Fin 32) (c : Fin 64) (b : Bool) : (s.setPixel r c b).dt = s.dt := rfl
@[simp] theorem State.setPixel_st (s : State) (r : Fin 32) (c : Fin 64) (b : Bool) : (s.setPixel r c b).st = s.st := rfl
@[simp] theorem State.setPixel_mem (s : State) (r : Fin 32) (c : Fin 64) (b : Bool) : (s.setPixel r c b).mem = s.mem := rfl
@[simp] theorem State.setPixel_keys (s : State) (r : Fin 32) (c : Fin 64) (b : Bool) : (s.setPixel r c b).keys = s.keys := rfl
@[simp] theorem State.setPixel_opcode (s : State) (r : Fin 32) (c : Fin 64) (b : Bool) : (s.setPixel r c b).opcode = s.opcode := rfl
@[simp] theorem State.setPixel_status (s : State) (r : Fin 32) (c : Fin 64) (b : Bool) : (s.setPixel r c b).status = s.status := rfl
@[simp] theorem State.setPixel_faultPc (s : State) (r : Fin 32) (c : Fin 64) (b : Bool) : (s.setPixel r c b).faultPc = s.faultPc := rfl
@[simp] theorem State.setPixel_faultOp (s : State) (r : Fin 32) (c : Fin 64) (b : Bool) : (s.setPixel r c b).faultOp = s.faultOp := rfl
@[simp] theorem State.setPixel_unkOp (s : State) (r : Fin 32) (c : Fin 64) (b : Bool) : (s.setPixel r c b).unkOp = s.unkOp := rfl
@[simp] theorem State.setPixel_unkPc (s : State) (r : Fin 32) (c : Fin 64) (b : Bool) : (s.setPixel r c b).unkPc = s.unkPc := rfl
@[simp] theorem State.setPixel_config (s : State) (r : Fin 32) (c : Fin 64) (b : Bool) : (s.setPixel r c b).config = s.config := rfl
@[simp] theorem State.setPixel_draws (s : State) (r : Fin 32) (c : Fin 64) (b : Bool) : (s.setPixel r c b).draws = s.draws := rfl
@[simp] theorem State.getV_setPixel (s : State) (r : Fin 32) (c : Fin 64) (b : Bool) (x' : Reg) : (s.setPixel r c b).getV x' = s.getV x' := rfl
@[simp] theorem State.readByte_setPixel (s : State) (r : Fin 32) (c : Fin 64) (b : Bool) (a' : Addr) : (s.setPixel r c b).readByte a' = s.readByte a' := rfl
@[simp] theorem State.key_setPixel (s : State) (r : Fin 32) (c : Fin 64) (b : Bool) (k : BitVec 4) : (s.setPixel r c b).key k = s.key k := rfl
@[simp] theorem State.stackAt_setPixel (s : State) (r : Fin 32) (c : Fin 64) (b : Bool) (k : Fin 16) : (s.setPixel r c b).stackAt k = s.stackAt k := rfl
@[simp] theorem State.halted_setPixel (s : State) (r : Fin 32) (c : Fin 64) (b : Bool) : (s.setPixel r c b).halted = s.halted := rfl
@[simp] theorem State.lowestKey_setPixel (s : State) (r : Fin 32) (c : Fin 64) (b : Bool) : (s.setPixel r c b).lowestKey = s.lowestKey := rfl
@[simp] theorem State.fetch16_setPixel (s : State) (r : Fin 32) (c : Fin 64) (b : Bool) (a' : Word) : (s.setPixel r c b).fetch16 a' = s.fetch16 a' := rfl

/-! `State.clearVideo` -/

@[simp] theorem State.clearVideo_v (s : State) : s.clearVideo.v = s.v := rfl
@[simp] theorem State.clearVideo_i (s : State) : s.clearVideo.i = s.i := rfl
@[simp] theorem State.clearVideo_pc (s : State) : s.clearVideo.pc = s.pc := rfl
@[simp] theorem State.clearVideo_sp (s : State) : s.clearVideo.sp = s.sp := rfl
@[simp] theorem State.clearVideo_stack (s : State) : s.clearVideo.stack = s.stack := rfl
@[simp] theorem State.clearVideo_dt (s : State) : s.clearVideo.dt = s.dt := rfl
@[simp] theorem State.clearVideo_st (s : State) : s.clearVideo.st = s.st := rfl
@[simp] theorem State.clearVideo_mem (s : State) : s.clearVideo.mem = s.mem := rfl
@[simp] theorem State.clearVideo_keys (s : State) : s.clearVideo.keys = s.keys := rfl
@[simp] theorem State.clearVideo_opcode (s : State) : s.clearVideo.opcode = s.opcode := rfl
@[simp] theorem State.clearVideo_status (s : State) : s.clearVideo.status = s.status := rfl
@[simp] theorem State.clearVideo_faultPc (s : State) : s.clearVideo.faultPc = s.faultPc := rfl
@[simp] theorem State.clearVideo_faultOp (s : State) : s.clearVideo.faultOp = s.faultOp := rfl
@[simp] theorem State.clearVideo_unkOp (s : State) : s.clearVideo.unkOp = s.unkOp := rfl
@[simp] theorem State.clearVideo_unkPc (s : State) : s.clearVideo.unkPc = s.unkPc := rfl
@[simp] theorem State.clearVideo_config (s : State) : s.clearVideo.config = s.config := rfl
@[simp] theorem State.clearVideo_draws (s : State) : s.clearVideo.draws = s.draws := rfl
@[simp] theorem State.getV_clearVideo (s : State) (x' : Reg) : s.clearVideo.getV x' = s.getV x' := rfl
@[simp] theorem State.readByte_clearVideo (s : State) (a' : Addr) : s.clearVideo.readByte a' = s.readByte a' := rfl
@[simp] theorem State.key_clearVideo (s : State) (k : BitVec 4) : s.clearVideo.key k = s.key k := rfl
@[simp] theorem State.stackAt_clearVideo (s : State) (k : Fin 16) : s.clearVideo.stackAt k = s.stackAt k := rfl
@[simp] theorem State.halted_clearVideo (s : State) : s.clearVideo.halted = s.halted := rfl
@[simp] theorem State.lowestKey_clearVideo (s : State) : s.clearVideo.lowestKey = s.lowestKey := rfl
@[simp] theorem State.fetch16_clearVideo (s : State) (a' : Word) : s.clearVideo.fetch16 a' = s.fetch16 a' := rfl

/-! `State.raiseHalt` -/

@[simp] theorem State.raiseHalt_v (s : State) (c : Cause) (a op : Word) : (s.raiseHalt c a op).v = s.v := rfl
@[simp] theorem State.raiseHalt_i (s : State) (c : Cause) (a op : Word) : (s.raiseHalt c a op).i = s.i := rfl
@[simp] theorem State.raiseHalt_pc (s : State) (c : Cause) (a op : Word) : (s.raiseHalt c a op).pc = a := rfl
@[simp] theorem State.raiseHalt_sp (s : State) (c : Cause) (a op : Word) : (s.raiseHalt c a op).sp = s.sp := rfl
@[simp] theorem State.raiseHalt_stack (s : State) (c : Cause) (a op : Word) : (s.raiseHalt c a op).stack = s.stack := rfl
@[simp] theorem State.raiseHalt_dt (s : State) (c : Cause) (a op : Word) : (s.raiseHalt c a op).dt = s.dt := rfl
@[simp] theorem State.raiseHalt_st (s : State) (c : Cause) (a op : Word) : (s.raiseHalt c a op).st = s.st := rfl
@[simp] theorem State.raiseHalt_mem (s : State) (c : Cause) (a op : Word) : (s.raiseHalt c a op).mem = s.mem := rfl
@[simp] theorem State.raiseHalt_video (s : State) (c : Cause) (a op : Word) : (s.raiseHalt c a op).video = s.video := rfl
@[simp] theorem State.raiseHalt_keys (s : State) (c : Cause) (a op : Word) : (s.raiseHalt c a op).keys = s.keys := rfl
@[simp] theorem State.raiseHalt_opcode (s : State) (c : Cause) (a op : Word) : (s.raiseHalt c a op).opcode = s.opcode := rfl
@[simp] theorem State.raiseHalt_status (s : State) (c : Cause) (a op : Word) : (s.raiseHalt c a op).status = statusWithHalt s.status c.code := rfl
@[simp] theorem State.raiseHalt_faultPc (s : State) (c : Cause) (a op : Word) : (s.raiseHalt c a op).faultPc = a := rfl
@[simp] theorem State.raiseHalt_faultOp (s : State) (c : Cause) (a op : Word) : (s.raiseHalt c a op).faultOp = op := rfl
@[simp] theorem State.raiseHalt_unkOp (s : State) (c : Cause) (a op : Word) : (s.raiseHalt c a op).unkOp = s.unkOp := rfl
@[simp] theorem State.raiseHalt_unkPc (s : State) (c : Cause) (a op : Word) : (s.raiseHalt c a op).unkPc = s.unkPc := rfl
@[simp] theorem State.raiseHalt_config (s : State) (c : Cause) (a op : Word) : (s.raiseHalt c a op).config = s.config := rfl
@[simp] theorem State.raiseHalt_draws (s : State) (c : Cause) (a op : Word) : (s.raiseHalt c a op).draws = s.draws := rfl
@[simp] theorem State.getV_raiseHalt (s : State) (c : Cause) (a op : Word) (x' : Reg) : (s.raiseHalt c a op).getV x' = s.getV x' := rfl
@[simp] theorem State.readByte_raiseHalt (s : State) (c : Cause) (a op : Word) (a' : Addr) : (s.raiseHalt c a op).readByte a' = s.readByte a' := rfl
@[simp] theorem State.pixel_raiseHalt (s : State) (c : Cause) (a op : Word) (r' : Fin 32) (c' : Fin 64) : (s.raiseHalt c a op).pixel r' c' = s.pixel r' c' := rfl
@[simp] theorem State.key_raiseHalt (s : State) (c : Cause) (a op : Word) (k : BitVec 4) : (s.raiseHalt c a op).key k = s.key k := rfl
@[simp] theorem State.stackAt_raiseHalt (s : State) (c : Cause) (a op : Word) (k : Fin 16) : (s.raiseHalt c a op).stackAt k = s.stackAt k := rfl
@[simp] theorem State.lowestKey_raiseHalt (s : State) (c : Cause) (a op : Word) : (s.raiseHalt c a op).lowestKey = s.lowestKey := rfl
@[simp] theorem State.fetch16_raiseHalt (s : State) (c : Cause) (a op : Word) (a' : Word) : (s.raiseHalt c a op).fetch16 a' = s.fetch16 a' := rfl

/-! `State.raiseInExec` -/

@[simp] theorem State.raiseInExec_v (s : State) (c : Cause) : (s.raiseInExec c).v = s.v := rfl
@[simp] theorem State.raiseInExec_i (s : State) (c : Cause) : (s.raiseInExec c).i = s.i := rfl
@[simp] theorem State.raiseInExec_pc (s : State) (c : Cause) : (s.raiseInExec c).pc = s.pc - 2 := rfl
@[simp] theorem State.raiseInExec_sp (s : State) (c : Cause) : (s.raiseInExec c).sp = s.sp := rfl
@[simp] theorem State.raiseInExec_stack (s : State) (c : Cause) : (s.raiseInExec c).stack = s.stack := rfl
@[simp] theorem State.raiseInExec_dt (s : State) (c : Cause) : (s.raiseInExec c).dt = s.dt := rfl
@[simp] theorem State.raiseInExec_st (s : State) (c : Cause) : (s.raiseInExec c).st = s.st := rfl
@[simp] theorem State.raiseInExec_mem (s : State) (c : Cause) : (s.raiseInExec c).mem = s.mem := rfl
@[simp] theorem State.raiseInExec_video (s : State) (c : Cause) : (s.raiseInExec c).video = s.video := rfl
@[simp] theorem State.raiseInExec_keys (s : State) (c : Cause) : (s.raiseInExec c).keys = s.keys := rfl
@[simp] theorem State.raiseInExec_opcode (s : State) (c : Cause) : (s.raiseInExec c).opcode = s.opcode := rfl
@[simp] theorem State.raiseInExec_status (s : State) (c : Cause) : (s.raiseInExec c).status = statusWithHalt s.status c.code := rfl
@[simp] theorem State.raiseInExec_faultPc (s : State) (c : Cause) : (s.raiseInExec c).faultPc = s.pc - 2 := rfl
@[simp] theorem State.raiseInExec_faultOp (s : State) (c : Cause) : (s.raiseInExec c).faultOp = s.opcode := rfl
@[simp] theorem State.raiseInExec_unkOp (s : State) (c : Cause) : (s.raiseInExec c).unkOp = s.unkOp := rfl
@[simp] theorem State.raiseInExec_unkPc (s : State) (c : Cause) : (s.raiseInExec c).unkPc = s.unkPc := rfl
@[simp] theorem State.raiseInExec_config (s : State) (c : Cause) : (s.raiseInExec c).config = s.config := rfl
@[simp] theorem State.raiseInExec_draws (s : State) (c : Cause) : (s.raiseInExec c).draws = s.draws := rfl
@[simp] theorem State.getV_raiseInExec (s : State) (c : Cause) (x' : Reg) : (s.raiseInExec c).getV x' = s.getV x' := rfl
@[simp] theorem State.readByte_raiseInExec (s : State) (c : Cause) (a' : Addr) : (s.raiseInExec c).readByte a' = s.readByte a' := rfl
@[simp] theorem State.pixel_raiseInExec (s : State) (c : Cause) (r' : Fin 32) (c' : Fin 64) : (s.raiseInExec c).pixel r' c' = s.pixel r' c' := rfl
@[simp] theorem State.key_raiseInExec (s : State) (c : Cause) (k : BitVec 4) : (s.raiseInExec c).key k = s.key k := rfl
@[simp] theorem State.stackAt_raiseInExec (s : State) (c : Cause) (k : Fin 16) : (s.raiseInExec c).stackAt k = s.stackAt k := rfl
@[simp] theorem State.lowestKey_raiseInExec (s : State) (c : Cause) : (s.raiseInExec c).lowestKey = s.lowestKey := rfl
@[simp] theorem State.fetch16_raiseInExec (s : State) (c : Cause) (a' : Word) : (s.raiseInExec c).fetch16 a' = s.fetch16 a' := rfl

/-! `State.reportUnknown` -/

@[simp] theorem State.reportUnknown_v (s : State) (op a : Word) : (s.reportUnknown op a).v = s.v := rfl
@[simp] theorem State.reportUnknown_i (s : State) (op a : Word) : (s.reportUnknown op a).i = s.i := rfl
@[simp] theorem State.reportUnknown_pc (s : State) (op a : Word) : (s.reportUnknown op a).pc = s.pc := rfl
@[simp] theorem State.reportUnknown_sp (s : State) (op a : Word) : (s.reportUnknown op a).sp = s.sp := rfl
@[simp] theorem State.reportUnknown_stack (s : State) (op a : Word) : (s.reportUnknown op a).stack = s.stack := rfl
@[simp] theorem State.reportUnknown_dt (s : State) (op a : Word) : (s.reportUnknown op a).dt = s.dt := rfl
@[simp] theorem State.reportUnknown_st (s : State) (op a : Word) : (s.reportUnknown op a).st = s.st := rfl
@[simp] theorem State.reportUnknown_mem (s : State) (op a : Word) : (s.reportUnknown op a).mem = s.mem := rfl
@[simp] theorem State.reportUnknown_video (s : State) (op a : Word) : (s.reportUnknown op a).video = s.video := rfl
@[simp] theorem State.reportUnknown_keys (s : State) (op a : Word) : (s.reportUnknown op a).keys = s.keys := rfl
@[simp] theorem State.reportUnknown_opcode (s : State) (op a : Word) : (s.reportUnknown op a).opcode = s.opcode := rfl
@[simp] theorem State.reportUnknown_status (s : State) (op a : Word) : (s.reportUnknown op a).status = statusWithUnkSeen s.status := rfl
@[simp] theorem State.reportUnknown_faultPc (s : State) (op a : Word) : (s.reportUnknown op a).faultPc = s.faultPc := rfl
@[simp] theorem State.reportUnknown_faultOp (s : State) (op a : Word) : (s.reportUnknown op a).faultOp = s.faultOp := rfl
@[simp] theorem State.reportUnknown_unkOp (s : State) (op a : Word) : (s.reportUnknown op a).unkOp = op := rfl
@[simp] theorem State.reportUnknown_unkPc (s : State) (op a : Word) : (s.reportUnknown op a).unkPc = a := rfl
@[simp] theorem State.reportUnknown_config (s : State) (op a : Word) : (s.reportUnknown op a).config = s.config := rfl
@[simp] theorem State.reportUnknown_draws (s : State) (op a : Word) : (s.reportUnknown op a).draws = s.draws := rfl
@[simp] theorem State.getV_reportUnknown (s : State) (op a : Word) (x' : Reg) : (s.reportUnknown op a).getV x' = s.getV x' := rfl
@[simp] theorem State.readByte_reportUnknown (s : State) (op a : Word) (a' : Addr) : (s.reportUnknown op a).readByte a' = s.readByte a' := rfl
@[simp] theorem State.pixel_reportUnknown (s : State) (op a : Word) (r' : Fin 32) (c' : Fin 64) : (s.reportUnknown op a).pixel r' c' = s.pixel r' c' := rfl
@[simp] theorem State.key_reportUnknown (s : State) (op a : Word) (k : BitVec 4) : (s.reportUnknown op a).key k = s.key k := rfl
@[simp] theorem State.stackAt_reportUnknown (s : State) (op a : Word) (k : Fin 16) : (s.reportUnknown op a).stackAt k = s.stackAt k := rfl
@[simp] theorem State.lowestKey_reportUnknown (s : State) (op a : Word) : (s.reportUnknown op a).lowestKey = s.lowestKey := rfl
@[simp] theorem State.fetch16_reportUnknown (s : State) (op a : Word) (a' : Word) : (s.reportUnknown op a).fetch16 a' = s.fetch16 a' := rfl

/-! `State.countdown` -/

@[simp] theorem State.countdown_v (s : State) : s.countdown.v = s.v := rfl
@[simp] theorem State.countdown_i (s : State) : s.countdown.i = s.i := rfl
@[simp] theorem State.countdown_pc (s : State) : s.countdown.pc = s.pc := rfl
@[simp] theorem State.countdown_sp (s : State) : s.countdown.sp = s.sp := rfl
@[simp] theorem State.countdown_stack (s : State) : s.countdown.stack = s.stack := rfl
@[simp] theorem State.countdown_dt (s : State) : s.countdown.dt = timerTick s.dt := rfl
@[simp] theorem State.countdown_st (s : State) : s.countdown.st = timerTick s.st := rfl
@[simp] theorem State.countdown_mem (s : State) : s.countdown.mem = s.mem := rfl
@[simp] theorem State.countdown_video (s : State) : s.countdown.video = s.video := rfl
@[simp] theorem State.countdown_keys (s : State) : s.countdown.keys = s.keys := rfl
@[simp] theorem State.countdown_opcode (s : State) : s.countdown.opcode = s.opcode := rfl
@[simp] theorem State.countdown_status (s : State) : s.countdown.status = s.status := rfl
@[simp] theorem State.countdown_faultPc (s : State) : s.countdown.faultPc = s.faultPc := rfl
@[simp] theorem State.countdown_faultOp (s : State) : s.countdown.faultOp = s.faultOp := rfl
@[simp] theorem State.countdown_unkOp (s : State) : s.countdown.unkOp = s.unkOp := rfl
@[simp] theorem State.countdown_unkPc (s : State) : s.countdown.unkPc = s.unkPc := rfl
@[simp] theorem State.countdown_config (s : State) : s.countdown.config = s.config := rfl
@[simp] theorem State.countdown_draws (s : State) : s.countdown.draws = s.draws := rfl
@[simp] theorem State.getV_countdown (s : State) (x' : Reg) : s.countdown.getV x' = s.getV x' := rfl
@[simp] theorem State.readByte_countdown (s : State) (a' : Addr) : s.countdown.readByte a' = s.readByte a' := rfl
@[simp] theorem State.pixel_countdown (s : State) (r' : Fin 32) (c' : Fin 64) : s.countdown.pixel r' c' = s.pixel r' c' := rfl
@[simp] theorem State.key_countdown (s : State) (k : BitVec 4) : s.countdown.key k = s.key k := rfl
@[simp] theorem State.stackAt_countdown (s : State) (k : Fin 16) : s.countdown.stackAt k = s.stackAt k := rfl
@[simp] theorem State.halted_countdown (s : State) : s.countdown.halted = s.halted := rfl
@[simp] theorem State.lowestKey_countdown (s : State) : s.countdown.lowestKey = s.lowestKey := rfl
@[simp] theorem State.fetch16_countdown (s : State) (a' : Word) : s.countdown.fetch16 a' = s.fetch16 a' := rfl

/-! `State.keysWrite` -/

@[simp] theorem State.keysWrite_v (s : State) (k16 : BitVec 16) : (s.keysWrite k16).v = s.v := rfl
@[simp] theorem State.keysWrite_i (s : State) (k16 : BitVec 16) : (s.keysWrite k16).i = s.i := rfl
@[simp] theorem State.keysWrite_pc (s : State) (k16 : BitVec 16) : (s.keysWrite k16).pc = s.pc := rfl
@[simp] theorem State.keysWrite_sp (s : State) (k16 : BitVec 16) : (s.keysWrite k16).sp = s.sp := rfl
@[simp] theorem State.keysWrite_stack (s : State) (k16 : BitVec 16) : (s.keysWrite k16).stack = s.stack := rfl
@[simp] theorem State.keysWrite_dt (s : State) (k16 : BitVec 16) : (s.keysWrite k16).dt = s.dt := rfl
@[simp] theorem State.keysWrite_st (s : State) (k16 : BitVec 16) : (s.keysWrite k16).st = s.st := rfl
@[simp] theorem State.keysWrite_mem (s : State) (k16 : BitVec 16) : (s.keysWrite k16).mem = s.mem := rfl
@[simp] theorem State.keysWrite_video (s : State) (k16 : BitVec 16) : (s.keysWrite k16).video = s.video := rfl
@[simp] theorem State.keysWrite_opcode (s : State) (k16 : BitVec 16) : (s.keysWrite k16).opcode = s.opcode := rfl
@[simp] theorem State.keysWrite_status (s : State) (k16 : BitVec 16) : (s.keysWrite k16).status = s.status := rfl
@[simp] theorem State.keysWrite_faultPc (s : State) (k16 : BitVec 16) : (s.keysWrite k16).faultPc = s.faultPc := rfl
@[simp] theorem State.keysWrite_faultOp (s : State) (k16 : BitVec 16) : (s.keysWrite k16).faultOp = s.faultOp := rfl
@[simp] theorem State.keysWrite_unkOp (s : State) (k16 : BitVec 16) : (s.keysWrite k16).unkOp = s.unkOp := rfl
@[simp] theorem State.keysWrite_unkPc (s : State) (k16 : BitVec 16) : (s.keysWrite k16).unkPc = s.unkPc := rfl
@[simp] theorem State.keysWrite_config (s : State) (k16 : BitVec 16) : (s.keysWrite k16).config = s.config := rfl
@[simp] theorem State.keysWrite_draws (s : State) (k16 : BitVec 16) : (s.keysWrite k16).draws = s.draws := rfl
@[simp] theorem State.getV_keysWrite (s : State) (k16 : BitVec 16) (x' : Reg) : (s.keysWrite k16).getV x' = s.getV x' := rfl
@[simp] theorem State.readByte_keysWrite (s : State) (k16 : BitVec 16) (a' : Addr) : (s.keysWrite k16).readByte a' = s.readByte a' := rfl
@[simp] theorem State.pixel_keysWrite (s : State) (k16 : BitVec 16) (r' : Fin 32) (c' : Fin 64) : (s.keysWrite k16).pixel r' c' = s.pixel r' c' := rfl
@[simp] theorem State.stackAt_keysWrite (s : State) (k16 : BitVec 16) (k : Fin 16) : (s.keysWrite k16).stackAt k = s.stackAt k := rfl
@[simp] theorem State.halted_keysWrite (s : State) (k16 : BitVec 16) : (s.keysWrite k16).halted = s.halted := rfl
@[simp] theorem State.fetch16_keysWrite (s : State) (k16 : BitVec 16) (a' : Word) : (s.keysWrite k16).fetch16 a' = s.fetch16 a' := rfl

end Sys2Proof.Machine
end

