-- ==== Sys2Proof/Laws/Memory.lean ====
section
/-! SUPPORT. Laws/Memory.lean: the memory list reads back what was written, leaves every other address alone, and keeps
its canonical form; the same for the byte accessors of State. -/

namespace Sys2Proof.Machine

theorem Memory.read_erase_self (c : Config) (m : Memory) (a : Nat) :
    Memory.read c (m.erase a) a = Memory.unlisted c a := by
  induction m with
  | nil => rfl
  | cons e m ih =>
    by_cases h : e.1 = a
    · simpa [Memory.erase, h] using ih
    · simpa [Memory.erase, h, Memory.read] using ih

theorem Memory.read_erase_of_ne (c : Config) (m : Memory) {a b : Nat} (hb : b ≠ a) :
    Memory.read c (m.erase a) b = Memory.read c m b := by
  induction m with
  | nil => rfl
  | cons e m ih =>
    by_cases h : e.1 = a
    · have he : e.1 ≠ b := fun hh => hb (hh.symm.trans h)
      simpa [Memory.erase, h, Memory.read, he, Ne.symm hb] using ih
    · by_cases he : e.1 = b
      · simp [Memory.erase, Memory.read, he, hb]
      · simpa [Memory.erase, h, Memory.read, he] using ih

theorem Memory.read_insert_self (c : Config) (a : Nat) (w : Byte) (m : Memory) (h : ∀ e ∈ m, e.1 ≠ a) :
    Memory.read c (Memory.insert a w m) a = w := by
  induction m with
  | nil => simp [Memory.insert, Memory.read]
  | cons e m ih =>
    obtain ⟨he, hm⟩ := List.forall_mem_cons.mp h
    by_cases hlt : a < e.1
    · simp [Memory.insert, hlt, Memory.read]
    · simpa [Memory.insert, hlt, Memory.read, he] using ih hm

theorem Memory.read_insert_of_ne (c : Config) {a b : Nat} (w : Byte) (m : Memory) (hb : b ≠ a) :
    Memory.read c (Memory.insert a w m) b = Memory.read c m b := by
  induction m with
  | nil => simp [Memory.insert, Memory.read, Ne.symm hb]
  | cons e m ih =>
    by_cases hlt : a < e.1
    · simp [Memory.insert, hlt, Memory.read, Ne.symm hb]
    · by_cases he : e.1 = b
      · subst he
        simp [Memory.insert, hlt, Memory.read]
      · simpa [Memory.insert, hlt, Memory.read, he] using ih

theorem Memory.not_mem_erase (m : Memory) (a : Nat) : ∀ e ∈ m.erase a, e.1 ≠ a := by
  simp [Memory.erase]

/-- A read after a write to the same address gives the byte written, in every list. -/
theorem Memory.read_write_self (c : Config) (m : Memory) (a : Nat) (w : Byte) :
    Memory.read c (m.write c a w) a = w := by
  unfold Memory.write
  split
  · next h => rw [Memory.read_erase_self, h]
  · exact Memory.read_insert_self c a w _ (Memory.not_mem_erase m a)

/-- A write leaves every other address alone, in every list. -/
theorem Memory.read_write_of_ne (c : Config) (m : Memory) {a b : Nat} (w : Byte) (hb : b ≠ a) :
    Memory.read c (m.write c a w) b = Memory.read c m b := by
  unfold Memory.write
  split
  · exact Memory.read_erase_of_ne c m hb
  · rw [Memory.read_insert_of_ne c w _ hb, Memory.read_erase_of_ne c m hb]

/-! The canonical form -/

theorem Memory.wf_nil (c : Config) : Memory.wf c [] := by
  simp [Memory.wf]

theorem Memory.wf_erase {c : Config} {m : Memory} (h : Memory.wf c m) (a : Nat) : Memory.wf c (m.erase a) :=
  ⟨h.1.filter _, fun e he => h.2 e (List.mem_filter.mp he).1⟩

theorem Memory.mem_insert {a : Nat} {w : Byte} {m : Memory} {e : Host.Cell} (h : e ∈ Memory.insert a w m) :
    e = (a, w) ∨ e ∈ m := by
  induction m with
  | nil => simpa [Memory.insert] using h
  | cons d m ih =>
    by_cases hlt : a < d.1
    · simpa [Memory.insert, hlt] using h
    · rcases List.mem_cons.mp (by simpa [Memory.insert, hlt] using h) with rfl | hm
      · exact .inr (List.mem_cons_self ..)
      · exact (ih hm).imp id (List.mem_cons_of_mem _)

theorem Memory.wf_insert {c : Config} {m : Memory} {a : Nat} {w : Byte} (h : Memory.wf c m) (ha : a < 4096)
    (hw : w ≠ Memory.unlisted c a) (hne : ∀ e ∈ m, e.1 ≠ a) : Memory.wf c (Memory.insert a w m) := by
  refine ⟨?_, fun e he => (Memory.mem_insert he).elim (fun hh => hh ▸ ⟨ha, hw⟩) (h.2 e)⟩
  obtain ⟨hp, -⟩ := h
  induction m with
  | nil => simp [Memory.insert]
  | cons d m ih =>
    obtain ⟨hd, hm⟩ := List.pairwise_cons.mp hp
    obtain ⟨hda, hma⟩ := List.forall_mem_cons.mp hne
    by_cases hlt : a < d.1
    · simp only [Memory.insert, hlt, if_true]
      refine List.pairwise_cons.mpr ⟨fun e he => ?_, hp⟩
      rcases List.mem_cons.mp he with rfl | he
      · exact hlt
      · exact hlt.trans (hd e he)
    · simp only [Memory.insert, hlt, if_false]
      refine List.pairwise_cons.mpr ⟨fun e he => ?_, ih hma hm⟩
      rcases Memory.mem_insert he with rfl | he
      · exact lt_of_le_of_ne (Nat.le_of_not_lt hlt) hda
      · exact hd e he

/-- Every write keeps the canonical form. -/
theorem Memory.wf_write {c : Config} {m : Memory} (h : Memory.wf c m) {a : Nat} (ha : a < 4096) (w : Byte) :
    Memory.wf c (m.write c a w) := by
  unfold Memory.write
  split
  · exact Memory.wf_erase h a
  · next hw => exact Memory.wf_insert (Memory.wf_erase h a) ha hw (Memory.not_mem_erase m a)

/-! The byte accessors of State -/

@[simp] theorem State.readByte_writeByte_self (s : State) (a : Addr) (b : Byte) : (s.writeByte a b).readByte a = b :=
  Memory.read_write_self _ _ _ _

theorem State.readByte_writeByte_of_ne (s : State) {a a' : Addr} (b : Byte) (h : a' ≠ a) :
    (s.writeByte a b).readByte a' = s.readByte a' :=
  Memory.read_write_of_ne _ _ _ fun hh => h (BitVec.eq_of_toNat_eq hh)

theorem State.readByte_writeByte (s : State) (a a' : Addr) (b : Byte) :
    (s.writeByte a b).readByte a' = if a' = a then b else s.readByte a' := by
  split
  · next h => rw [h, State.readByte_writeByte_self]
  · next h => exact s.readByte_writeByte_of_ne b h

theorem State.writeByte_canonical {s : State} (h : MemoryCanonical s) (a : Addr) (b : Byte) :
    MemoryCanonical (s.writeByte a b) :=
  Memory.wf_write h a.isLt b

end Sys2Proof.Machine
end

