-- ==== Sys2Proof/Laws/Ops.lean ====
section
/-! SUPPORT. Laws/Ops.lean: one lemma for each shared operation: the value it gives and what it leaves unchanged. -/

namespace Sys2Proof.Machine

/-! Registers -/

theorem State.getV_setV (s : State) (x y : Reg) (b : Byte) : (s.setV x b).getV y = if y = x then b else s.getV y := by
  simp only [State.getV, State.setV, Vector.getElem_set]
  exact if_congr ⟨fun h => (BitVec.eq_of_toNat_eq h).symm, fun h => h ▸ rfl⟩ rfl rfl

@[simp] theorem State.getV_setV_self (s : State) (x : Reg) (b : Byte) : (s.setV x b).getV x = b := by
  simp [State.getV_setV]

theorem State.getV_setV_of_ne (s : State) {x y : Reg} (b : Byte) (h : y ≠ x) : (s.setV x b).getV y = s.getV y := by
  simp [State.getV_setV, h]

theorem State.getV_setFlagAndV (s : State) (x y : Reg) (f r : Byte) :
    (s.setFlagAndV x f r).getV y = if y = x then r else if y = vf then f else s.getV y := by
  simp [State.setFlagAndV, State.getV_setV]

/-! Pixels -/

theorem State.pixel_setPixel (s : State) (r r' : Fin 32) (c c' : Fin 64) (b : Bool) :
    (s.setPixel r c b).pixel r' c' = if r' = r ∧ c' = c then b else s.pixel r' c' := by
  simp only [State.pixel, State.setPixel, Vector.get_eq_getElem, Vector.getElem_set]
  by_cases hr : r' = r
  · subst hr
    by_cases hc : c' = c
    · subst hc
      simp
    · have : c.val ≠ c'.val := fun h => hc (Fin.ext h.symm)
      simp [this, hc]
  · have : r.val ≠ r'.val := fun h => hr (Fin.ext h.symm)
    simp [this, hr]

@[simp] theorem State.pixel_clearVideo (s : State) (r : Fin 32) (c : Fin 64) : s.clearVideo.pixel r c = false := by
  simp [State.pixel, State.clearVideo, Vector.get_eq_getElem]

/-! The frame relation -/

theorem UnchangedBut.refl (l : List Part) (s : State) : UnchangedBut l s s := by
  intro p _
  cases p <;> rfl

theorem Part.Same.trans {p : Part} {s t u : State} (h : p.Same s t) (h' : p.Same t u) : p.Same s u := by
  cases p <;> exact Eq.trans h' h

theorem UnchangedBut.trans {l : List Part} {s t u : State} (h : UnchangedBut l s t) (h' : UnchangedBut l t u) :
    UnchangedBut l s u :=
  fun p hp => (h p hp).trans (h' p hp)

theorem UnchangedBut.mono {l l' : List Part} {s t : State} (h : UnchangedBut l s t) (hl : ∀ p ∈ l, p ∈ l') :
    UnchangedBut l' s t :=
  fun p hp => h p fun hh => hp (hl p hh)

theorem State.setV_frame (s : State) (x : Reg) (b : Byte) : UnchangedBut [.reg x] s (s.setV x b) := by
  intro p hp
  cases p with
  | reg y => exact s.getV_setV_of_ne b (by simpa using hp)
  | _ => rfl

theorem State.setFlagAndV_frame (s : State) (x : Reg) (f r : Byte) :
    UnchangedBut [.reg vf, .reg x] s (s.setFlagAndV x f r) :=
  ((s.setV_frame vf f).mono (by simp)).trans (((s.setV vf f).setV_frame x r).mono (by simp))

theorem State.writeByte_frame (s : State) (a : Addr) (b : Byte) : UnchangedBut [.byte a] s (s.writeByte a b) := by
  intro p hp
  cases p with
  | byte a' => exact s.readByte_writeByte_of_ne b (by simpa using hp)
  | _ => rfl

theorem State.setPixel_frame (s : State) (r : Fin 32) (c : Fin 64) (b : Bool) :
    UnchangedBut [.pixel r c] s (s.setPixel r c b) := by
  intro p hp
  cases p with
  | pixel r' c' =>
    have : ¬(r' = r ∧ c' = c) := by simpa using hp
    simp [Part.Same, State.pixel_setPixel, this]
  | _ => rfl

theorem State.setPc_frame (s : State) (w : Word) : UnchangedBut [.pc] s (s.setPc w) := by
  intro p hp
  cases p <;> first | rfl | simp at hp

theorem State.setI_frame (s : State) (w : Word) : UnchangedBut [.index] s (s.setI w) := by
  intro p hp
  cases p <;> first | rfl | simp at hp

theorem State.setDt_frame (s : State) (b : Byte) : UnchangedBut [.dt] s (s.setDt b) := by
  intro p hp
  cases p <;> first | rfl | simp at hp

theorem State.setSt_frame (s : State) (b : Byte) : UnchangedBut [.st] s (s.setSt b) := by
  intro p hp
  cases p <;> first | rfl | simp at hp

theorem State.setOpcode_frame (s : State) (w : Word) : UnchangedBut [.opcode] s (s.setOpcode w) := by
  intro p hp
  cases p <;> first | rfl | simp at hp

theorem State.nextDraw_frame (s : State) : UnchangedBut [.draws] s s.nextDraw := by
  intro p hp
  cases p <;> first | rfl | simp at hp

theorem State.countdown_frame (s : State) : UnchangedBut [.dt, .st] s s.countdown := by
  intro p hp
  cases p <;> first | rfl | simp at hp

theorem State.reportUnknown_frame (s : State) (op a : Word) :
    UnchangedBut [.status, .unkOp, .unkPc] s (s.reportUnknown op a) := by
  intro p hp
  cases p <;> first | rfl | simp at hp

theorem State.raiseHalt_frame (s : State) (c : Cause) (a op : Word) :
    UnchangedBut [.pc, .status, .faultPc, .faultOp] s (s.raiseHalt c a op) := by
  intro p hp
  cases p <;> first | rfl | simp at hp

theorem State.skipIf_frame (s : State) (b : Bool) : UnchangedBut [.pc] s (s.skipIf b) := by
  cases b
  · exact .refl _ s
  · exact s.setPc_frame _

@[simp] theorem State.skipIf_pc (s : State) (b : Bool) : (s.skipIf b).pc = if b then s.pc + 2 else s.pc := by
  cases b <;> rfl

/-! The stack -/

/-- A push that answers: sp was below 16, it is one more, the entry there is w, and nothing else changed. -/
theorem State.push_some {s t : State} {w : Word} (h : s.push w = some t) :
    ∃ hlt : s.sp.val < 16, t.sp.val = s.sp.val + 1 ∧ t.stackAt ⟨s.sp.val, hlt⟩ = w ∧
      UnchangedBut [.sp, .stackEntry ⟨s.sp.val, hlt⟩] s t := by
  unfold State.push at h
  split at h
  · next hlt =>
    obtain rfl := Option.some.inj h
    refine ⟨hlt, rfl, by simp [State.stackAt, Vector.get_eq_getElem], fun p hp => ?_⟩
    cases p with
    | stackEntry k =>
      have hk : s.sp.val ≠ k.val := fun hh => hp (by simp [hh])
      simp [Part.Same, State.stackAt, Vector.get_eq_getElem, hk]
    | sp => simp at hp
    | _ => rfl
  · cases h

theorem State.push_eq_none {s : State} {w : Word} : s.push w = none ↔ s.sp = 16 := by
  have h17 := s.sp.isLt
  unfold State.push
  split
  · next h => exact ⟨nofun, fun h16 => absurd h (by simp [h16])⟩
  · next h => exact ⟨fun _ => Fin.ext (by simp; omega), fun _ => rfl⟩

/-- A pop that answers: sp was not 0, it is one less, the value is the entry there, and nothing else changed. -/
theorem State.pop_some {s t : State} {w : Word} (h : s.pop = some (w, t)) :
    ∃ k : Fin 16, s.sp.val = k.val + 1 ∧ t.sp.val = k.val ∧ w = s.stackAt k ∧ UnchangedBut [.sp] s t := by
  have h17 := s.sp.isLt
  unfold State.pop at h
  split at h
  · next hlt =>
    obtain ⟨rfl, rfl⟩ := Prod.mk.inj (Option.some.inj h)
    refine ⟨⟨s.sp.val - 1, by omega⟩, by simp; omega, rfl, rfl, fun p hp => ?_⟩
    cases p <;> first | rfl | simp at hp
  · cases h

theorem State.pop_eq_none {s : State} : s.pop = none ↔ s.sp = 0 := by
  unfold State.pop
  split
  · next h => exact ⟨nofun, fun h0 => absurd h (by simp [h0])⟩
  · next h => exact ⟨fun _ => Fin.ext (by simpa using h), fun _ => rfl⟩

/-! STATUS -/

@[simp] theorem statusHalt_withHalt (w : Byte) (c : BitVec 3) : statusHalt (statusWithHalt w c) = true := by
  revert w c; decide

@[simp] theorem statusCause_withHalt (w : Byte) (c : BitVec 3) : statusCause (statusWithHalt w c) = c := by
  revert w c; decide

@[simp] theorem statusReserved_withHalt (w : Byte) (c : BitVec 3) :
    statusReserved (statusWithHalt w c) = statusReserved w := by
  revert w c; decide

@[simp] theorem statusUnkSeen_withHalt (w : Byte) (c : BitVec 3) :
    statusUnkSeen (statusWithHalt w c) = statusUnkSeen w := by
  revert w c; decide

@[simp] theorem statusLoadErr_withHalt (w : Byte) (c : BitVec 3) :
    statusLoadErr (statusWithHalt w c) = statusLoadErr w := by
  revert w c; decide

@[simp] theorem statusHalt_withUnkSeen (w : Byte) : statusHalt (statusWithUnkSeen w) = statusHalt w := by
  revert w; decide

@[simp] theorem statusCause_withUnkSeen (w : Byte) : statusCause (statusWithUnkSeen w) = statusCause w := by
  revert w; decide

@[simp] theorem statusReserved_withUnkSeen (w : Byte) :
    statusReserved (statusWithUnkSeen w) = statusReserved w := by
  revert w; decide

@[simp] theorem statusUnkSeen_withUnkSeen (w : Byte) : statusUnkSeen (statusWithUnkSeen w) = true := by
  revert w; decide

@[simp] theorem statusLoadErr_withUnkSeen (w : Byte) : statusLoadErr (statusWithUnkSeen w) = statusLoadErr w := by
  revert w; decide

@[simp] theorem statusUnkSeen_withLoadErr (w : Byte) : statusUnkSeen (statusWithLoadErr w) = statusUnkSeen w := by
  revert w; decide

@[simp] theorem statusLoadErr_withLoadErr (w : Byte) : statusLoadErr (statusWithLoadErr w) = true := by
  revert w; decide

@[simp] theorem statusHalt_withLoadErr (w : Byte) : statusHalt (statusWithLoadErr w) = statusHalt w := by
  revert w; decide

@[simp] theorem statusCause_withLoadErr (w : Byte) : statusCause (statusWithLoadErr w) = statusCause w := by
  revert w; decide

@[simp] theorem statusReserved_withLoadErr (w : Byte) :
    statusReserved (statusWithLoadErr w) = statusReserved w := by
  revert w; decide

@[simp] theorem State.halted_raiseHalt (s : State) (c : Cause) (a op : Word) : (s.raiseHalt c a op).halted = true :=
  statusHalt_withHalt _ _

@[simp] theorem State.halted_raiseInExec (s : State) (c : Cause) : (s.raiseInExec c).halted = true :=
  statusHalt_withHalt _ _

@[simp] theorem State.halted_reportUnknown (s : State) (op a : Word) : (s.reportUnknown op a).halted = s.halted :=
  statusHalt_withUnkSeen _

/-! Folds over memory and registers -/

/-- Storing V[0..n-1] changes only the bytes at DataAddr(I, 0..n-1). -/
theorem State.storeV_frame (s : State) (n : Nat) :
    UnchangedBut ((List.range n).map fun k => .byte (dataAddr s.i k)) s (s.storeV n) := by
  unfold State.storeV
  induction n with
  | zero => exact .refl _ s
  | succ n ih =>
    rw [List.range_succ, List.foldl_append, List.map_append]
    refine (ih.mono fun p hp => List.mem_append_left _ hp).trans ?_
    exact (State.writeByte_frame _ _ _).mono fun p hp => List.mem_append_right _ (by simpa using hp)

/-- Loading V[0..n-1] changes only those registers. -/
theorem State.loadV_frame (s : State) (n : Nat) :
    UnchangedBut ((List.range n).map fun k => .reg (BitVec.ofNat 4 k)) s (s.loadV n) := by
  unfold State.loadV
  induction n with
  | zero => exact .refl _ s
  | succ n ih =>
    rw [List.range_succ, List.foldl_append, List.map_append]
    refine (ih.mono fun p hp => List.mem_append_left _ hp).trans ?_
    exact (State.setV_frame _ _ _).mono fun p hp => List.mem_append_right _ (by simpa using hp)

/-- A fold of operations that each keep a property keeps it. -/
theorem foldl_keeps {α β : Type} {P : β → Prop} {f : β → α → β} (hf : ∀ b a, P b → P (f b a)) :
    ∀ (l : List α) (b : β), P b → P (l.foldl f b)
  | [], _, h => h
  | a :: l, b, h => foldl_keeps hf l (f b a) (hf b a h)

end Sys2Proof.Machine
end

