-- ==== Sys2Proof/Laws/Display.lean ====
section
/-! SUPPORT. Laws/Display.lean: what the drawing loops do, in closed form (spec 45_display R197, R200, R201). -/

namespace Sys2Proof.Machine

/-- t is s with exactly the pixels of C toggled, VF 1 if one of them was lit and as in s otherwise, and the sprite's
address and bytes as they were. -/
structure Drawn (C : Fin 32 → Fin 64 → Prop) (s t : State) : Prop where
  toggled : ∀ r c, C r c → t.pixel r c = !s.pixel r c
  kept : ∀ r c, ¬C r c → t.pixel r c = s.pixel r c
  flag_set : (∃ r c, C r c ∧ s.pixel r c = true) → t.getV vf = 1
  flag_kept : (∀ r c, C r c → s.pixel r c = false) → t.getV vf = s.getV vf
  index : t.i = s.i
  bytes : ∀ a, t.readByte a = s.readByte a

theorem Drawn.refl {C : Fin 32 → Fin 64 → Prop} (hC : ∀ r c, ¬C r c) (s : State) : Drawn C s s where
  toggled r c h := absurd h (hC r c)
  kept _ _ _ := rfl
  flag_set := fun ⟨r, c, h, _⟩ => absurd h (hC r c)
  flag_kept _ := rfl
  index := rfl
  bytes _ := rfl

/-- Two drawings on different pixels, one after the other. -/
theorem Drawn.trans {C C' D : Fin 32 → Fin 64 → Prop} {s t u : State} (h : Drawn C s t) (h' : Drawn C' t u)
    (hd : ∀ r c, C r c → ¬C' r c) (hD : ∀ r c, D r c ↔ C r c ∨ C' r c) : Drawn D s u where
  toggled r c hh := by
    rcases (hD r c).mp hh with hc | hc
    · rw [h'.kept r c (hd r c hc), h.toggled r c hc]
    · rw [h'.toggled r c hc, h.kept r c fun hc' => hd r c hc' hc]
  kept r c hh := by
    have hn := not_or.mp fun hc => hh ((hD r c).mpr hc)
    rw [h'.kept r c hn.2, h.kept r c hn.1]
  flag_set := by
    rintro ⟨r, c, hh, hp⟩
    rcases (hD r c).mp hh with hc | hc
    · by_cases hx : ∃ r c, C' r c ∧ t.pixel r c = true
      · exact h'.flag_set hx
      · rw [h'.flag_kept fun r c hc' => Bool.eq_false_of_not_eq_true fun he => hx ⟨r, c, hc', he⟩]
        exact h.flag_set ⟨r, c, hc, hp⟩
    · exact h'.flag_set ⟨r, c, hc, by rw [h.kept r c fun hc' => hd r c hc' hc, hp]⟩
  flag_kept hh := by
    rw [h'.flag_kept fun r c hc => ?_, h.flag_kept fun r c hc => hh r c ((hD r c).mpr (.inl hc))]
    rw [h.kept r c fun hc' => hd r c hc' hc]
    exact hh r c ((hD r c).mpr (.inr hc))
  index := h'.index.trans h.index
  bytes a := (h'.bytes a).trans (h.bytes a)

/-- Toggling one pixel. -/
theorem State.togglePixel_drawn (s : State) (r : Fin 32) (c : Fin 64) :
    Drawn (fun r' c' => r' = r ∧ c' = c) s (s.togglePixel r c) := by
  cases hp : s.pixel r c
  · have h : s.togglePixel r c = s.setPixel r c true := by simp [State.togglePixel, hp]
    rw [h]
    exact {
      toggled := by rintro r' c' ⟨rfl, rfl⟩; simp [State.pixel_setPixel, hp]
      kept := fun r' c' hn => by simp [State.pixel_setPixel, hn]
      flag_set := by rintro ⟨r', c', ⟨rfl, rfl⟩, hl⟩; simp [hp] at hl
      flag_kept := fun _ => rfl
      index := rfl
      bytes := fun _ => rfl }
  · have h : s.togglePixel r c = (s.setV vf 1).setPixel r c false := by simp [State.togglePixel, hp]
    rw [h]
    exact {
      toggled := by rintro r' c' ⟨rfl, rfl⟩; simp [State.pixel_setPixel, hp]
      kept := fun r' c' hn => by rw [State.pixel_setPixel, if_neg hn]; rfl
      flag_set := fun _ => s.getV_setV_self vf 1
      flag_kept := fun hn => by simp [hn r c ⟨rfl, rfl⟩] at hp
      index := rfl
      bytes := fun _ => rfl }

/-- Distinct column offsets of one sprite row land on distinct columns. -/
theorem pixelColumn_inj {px : Byte} {a b : Nat} (ha : a < 8) (hb : b < 8) (h : pixelColumn px a = pixelColumn px b) :
    a = b := by
  simp only [pixelColumn, Fin.mk.injEq] at h
  omega

/-- Distinct row offsets of one sprite land on distinct rows. -/
theorem pixelRow_inj {py : Byte} {a b : Nat} (ha : a < 16) (hb : b < 16) (h : pixelRow py a = pixelRow py b) :
    a = b := by
  simp only [pixelRow, Fin.mk.injEq] at h
  omega

theorem State.drawRow_drawn (s : State) (px py b : Byte) (row : Nat) :
    Drawn (fun r c => ∃ col < 8, spriteBit b col = true ∧ r = pixelRow py row ∧ c = pixelColumn px col) s
      (s.drawRow px py b row) := by
  unfold State.drawRow
  have key : ∀ m ≤ 8, Drawn
      (fun r c => ∃ col < m, spriteBit b col = true ∧ r = pixelRow py row ∧ c = pixelColumn px col) s
      ((List.range m).foldl
        (fun t col => if spriteBit b col then t.togglePixel (pixelRow py row) (pixelColumn px col) else t) s) := by
    intro m
    induction m with
    | zero => exact fun _ => Drawn.refl (by simp) s
    | succ m ih =>
      intro hm
      rw [List.range_succ, List.foldl_append]
      by_cases hb : spriteBit b m = true
      · simp only [List.foldl_cons, List.foldl_nil, hb, if_true]
        refine (ih (by omega)).trans (State.togglePixel_drawn _ _ _) ?_ ?_
        · rintro r c ⟨col, hlt, -, -, rfl⟩ ⟨-, hc⟩
          have := pixelColumn_inj (by omega) (by omega) hc
          omega
        · intro r c
          constructor
          · rintro ⟨col, hlt, hs, hr, hc⟩
            rcases Nat.lt_succ_iff_lt_or_eq.mp hlt with hl | rfl
            · exact .inl ⟨col, hl, hs, hr, hc⟩
            · exact .inr ⟨hr, hc⟩
          · rintro (⟨col, hlt, hh⟩ | ⟨hr, hc⟩)
            · exact ⟨col, by omega, hh⟩
            · exact ⟨m, by omega, hb, hr, hc⟩
      · simp only [List.foldl_cons, List.foldl_nil, hb]
        refine (ih (by omega)).trans (Drawn.refl (C := fun _ _ => False) (by simp) _) (by simp) fun r c => ?_
        constructor
        · rintro ⟨col, hlt, hs, hh⟩
          rcases Nat.lt_succ_iff_lt_or_eq.mp hlt with hl | rfl
          · exact .inl ⟨col, hl, hs, hh⟩
          · exact absurd hs hb
        · rintro (⟨col, hlt, hh⟩ | hf)
          · exact ⟨col, by omega, hh⟩
          · exact hf.elim
  exact key 8 (Nat.le_refl 8)

/-- The n rows of a sprite toggle exactly the pixels its set bits land on. -/
theorem State.drawRows_drawn (s : State) (px py : Byte) {n : Nat} (hn : n < 16) :
    Drawn (fun r c => ∃ row < n, ∃ col < 8, spriteBit (s.readByte (dataAddr s.i row)) col = true ∧
      r = pixelRow py row ∧ c = pixelColumn px col) s (s.drawRows px py n) := by
  unfold State.drawRows
  induction n with
  | zero => exact Drawn.refl (by simp) s
  | succ n ih =>
    have h := ih (by omega)
    rw [List.range_succ, List.foldl_append, List.foldl_cons, List.foldl_nil]
    rw [h.index, h.bytes]
    refine h.trans (State.drawRow_drawn _ px py _ n) ?_ ?_
    · rintro r c ⟨row, hlt, -, -, -, hr, -⟩ ⟨-, -, -, hr', -⟩
      have := pixelRow_inj (by omega) (by omega) (hr ▸ hr')
      omega
    · intro r c
      constructor
      · rintro ⟨row, hlt, hh⟩
        rcases Nat.lt_succ_iff_lt_or_eq.mp hlt with hl | rfl
        · exact .inl ⟨row, hl, hh⟩
        · exact .inr hh
      · rintro (⟨row, hlt, hh⟩ | hh)
        · exact ⟨row, by omega, hh⟩
        · exact ⟨n, by omega, hh⟩

end Sys2Proof.Machine
end

