-- ==== Sys2Proof/Laws/Step.lean ====
section
/-! SUPPORT. Laws/Step.lean: what one cycle can do, said once (spec 40_cycle R111). -/

namespace Sys2Proof.Machine

theorem beginCycle_halted {s : State} (h : s.halted = true) : s.beginCycle = .done s := by
  simp [State.beginCycle, h]

theorem beginCycle_misaligned {s : State} (h : s.halted = false) (hp : s.pc.getLsbD 0 = true) :
    s.beginCycle = .done (s.raiseHalt .fetchMisaligned s.pc 0) := by
  simp [State.beginCycle, h, hp]

theorem beginCycle_range {s : State} (h : s.halted = false) (hp : s.pc.getLsbD 0 = false) (hr : 0xFFE < s.pc.toNat) :
    s.beginCycle = .done (s.raiseHalt .fetchRange s.pc 0) := by
  simp only [State.beginCycle, h, hp, hr, Bool.false_eq_true, if_false, if_true]

theorem beginCycle_unknown {s : State} {why : UnknownWord} (h : s.halted = false) (hp : s.pc.getLsbD 0 = false)
    (hr : s.pc.toNat ≤ 0xFFE) (hd : decode (s.fetch16 s.pc) = .unknown why) :
    s.beginCycle = .done (s.fetched.reportUnknown (s.fetch16 s.pc) s.pc).countdown := by
  simp only [State.beginCycle, h, hp, Nat.not_lt.mpr hr, hd, Bool.false_eq_true, if_false]

theorem beginCycle_dispatch {s : State} {i : Instr} (h : s.halted = false) (hp : s.pc.getLsbD 0 = false)
    (hr : s.pc.toNat ≤ 0xFFE) (hd : decode (s.fetch16 s.pc) = .inst i) :
    s.beginCycle = .dispatch i s.fetched := by
  simp only [State.beginCycle, h, hp, Nat.not_lt.mpr hr, hd, Bool.false_eq_true, if_false]

/-- Bit 0 of pc is its parity (R113 "pc odd"). -/
theorem getLsbD_zero_eq_false_iff (w : Word) : w.getLsbD 0 = false ↔ w.toNat % 2 = 0 := by
  simp [BitVec.getLsbD, Nat.testBit_zero]

/-- The five ways a cycle can go: halted (R119), the two fetch conditions (R113), an unknown word (R116), an instruction. -/
theorem beginCycle_cases (s : State) :
    (s.halted = true ∧ s.beginCycle = .done s) ∨
    (s.halted = false ∧ s.pc.toNat % 2 = 1 ∧ s.beginCycle = .done (s.raiseHalt .fetchMisaligned s.pc 0)) ∨
    (s.halted = false ∧ s.pc.toNat % 2 = 0 ∧ 0xFFE < s.pc.toNat ∧
      s.beginCycle = .done (s.raiseHalt .fetchRange s.pc 0)) ∨
    (Fetches s ∧ (∃ why, decode (s.fetch16 s.pc) = .unknown why) ∧
      s.beginCycle = .done (s.fetched.reportUnknown (s.fetch16 s.pc) s.pc).countdown) ∨
    (∃ i, Fetches s ∧ decode (s.fetch16 s.pc) = .inst i ∧ s.beginCycle = .dispatch i s.fetched) := by
  by_cases h : s.halted = true
  · exact .inl ⟨h, beginCycle_halted h⟩
  rw [Bool.not_eq_true] at h
  by_cases hp : s.pc.getLsbD 0 = false
  · have he := (getLsbD_zero_eq_false_iff s.pc).mp hp
    by_cases hr : s.pc.toNat ≤ 0xFFE
    · cases hd : decode (s.fetch16 s.pc) with
      | inst i => exact .inr (.inr (.inr (.inr ⟨i, ⟨h, he, hr⟩, rfl, beginCycle_dispatch h hp hr hd⟩)))
      | unknown why => exact .inr (.inr (.inr (.inl ⟨⟨h, he, hr⟩, ⟨why, rfl⟩, beginCycle_unknown h hp hr hd⟩)))
    · exact .inr (.inr (.inl ⟨h, he, Nat.lt_of_not_le hr, beginCycle_range h hp (Nat.lt_of_not_le hr)⟩))
  · have ho : s.pc.toNat % 2 = 1 := by
      have := mt (getLsbD_zero_eq_false_iff s.pc).mpr hp
      omega
    exact .inr (.inl ⟨h, ho, beginCycle_misaligned h (by simpa using hp)⟩)

/-- A step that answers a next state: every way it can have come about. -/
theorem step_cases {s t : State} (h : step s = .next t) :
    (s.halted = true ∧ t = s) ∨
    (s.halted = false ∧ s.pc.toNat % 2 = 1 ∧ t = s.raiseHalt .fetchMisaligned s.pc 0) ∨
    (s.halted = false ∧ s.pc.toNat % 2 = 0 ∧ 0xFFE < s.pc.toNat ∧ t = s.raiseHalt .fetchRange s.pc 0) ∨
    (Fetches s ∧ (∃ why, decode (s.fetch16 s.pc) = .unknown why) ∧
      t = (s.fetched.reportUnknown (s.fetch16 s.pc) s.pc).countdown) ∨
    (∃ i u, Fetches s ∧ decode (s.fetch16 s.pc) = .inst i ∧ exec i s.fetched = .next u ∧ t = s.endCycle u) := by
  unfold step at h
  rcases beginCycle_cases s with ⟨hh, hb⟩ | ⟨hh, ho, hb⟩ | ⟨hh, he, hr, hb⟩ | ⟨hf, hw, hb⟩ | ⟨i, hf, hd, hb⟩ <;>
    rw [hb] at h
  · cases h; exact .inl ⟨hh, rfl⟩
  · cases h; exact .inr (.inl ⟨hh, ho, rfl⟩)
  · cases h; exact .inr (.inr (.inl ⟨hh, he, hr, rfl⟩))
  · cases h; exact .inr (.inr (.inr (.inl ⟨hf, hw, rfl⟩)))
  · cases hx : exec i s.fetched with
    | next u => simp only [hx] at h; cases h; exact .inr (.inr (.inr (.inr ⟨i, u, hf, hd, hx, rfl⟩)))
    | fault f => nomatch f
    | refused r => simp [hx] at h

/-! The state an instruction sees, and the end of a cycle -/

@[simp] theorem State.fetched_pc (s : State) : s.fetched.pc = s.pc + 2 := rfl
@[simp] theorem State.fetched_opcode (s : State) : s.fetched.opcode = s.fetch16 s.pc := rfl
@[simp] theorem State.halted_fetched (s : State) : s.fetched.halted = s.halted := rfl

theorem State.fetched_frame (s : State) : UnchangedBut [.opcode, .pc] s s.fetched :=
  ((s.setOpcode_frame _).mono (by simp)).trans ((State.setPc_frame _ _).mono (by simp))

theorem State.endCycle_of_halted {s t : State} (h : t.halted = true) : s.endCycle t = t.setOpcode s.opcode := by
  simp [State.endCycle, h]

theorem State.endCycle_of_running {s t : State} (h : t.halted = false) : s.endCycle t = t.countdown := by
  simp [State.endCycle, h]

@[simp] theorem State.halted_endCycle (s t : State) : (s.endCycle t).halted = t.halted := by
  unfold State.endCycle
  split <;> rfl

theorem State.endCycle_frame (s t : State) : UnchangedBut [.opcode, .dt, .st] t (s.endCycle t) := by
  unfold State.endCycle
  split
  · exact (t.setOpcode_frame _).mono (by simp)
  · exact t.countdown_frame.mono (by simp)

/-! The word the fetch reads -/

/-- The fetch of the model reads the word the claims speak of. -/
theorem fetch16_eq_fetchedWord (s : State) : s.fetch16 s.pc = fetchedWord s := by
  have h : (s.pc + 1).setWidth 12 = BitVec.ofNat 12 (s.pc.toNat + 1) :=
    BitVec.eq_of_toNat_eq (by simp)
  have h' : s.pc.setWidth 12 = BitVec.ofNat 12 s.pc.toNat := BitVec.eq_of_toNat_eq (by simp)
  rw [State.fetch16, h, h']
  rfl

end Sys2Proof.Machine
end

