-- ==== Sys2Proof/Laws/Exec.lean ====
section
/-! SUPPORT. Laws/Exec.lean: what each instruction may change, said once for all of exec, and that only the four
instructions with an execute-stage condition can halt (spec 10_state R24, 60_exceptions R222, R223). -/

namespace Sys2Proof.Machine

/-! Frames as predicates -/

/-- Every part outside C is the same in s and t. -/
def SameOutside (C : Part → Prop) (s t : State) : Prop := ∀ p, ¬C p → p.Same s t

theorem SameOutside.of_frame {C : Part → Prop} {l : List Part} {s t : State} (h : UnchangedBut l s t)
    (hl : ∀ p ∈ l, C p) : SameOutside C s t :=
  fun p hp => h p fun hm => hp (hl p hm)

theorem SameOutside.refl (C : Part → Prop) (s : State) : SameOutside C s s :=
  fun p _ => UnchangedBut.refl [] s p (by simp)

theorem SameOutside.trans {C : Part → Prop} {s t u : State} (h : SameOutside C s t) (h' : SameOutside C t u) :
    SameOutside C s u :=
  fun p hp => (h p hp).trans (h' p hp)

/-! Drawing -/

/-- The parts a DRW may change: VF and pixels (R197). -/
def DrawPart (p : Part) : Prop := p = .reg vf ∨ ∃ r c, p = .pixel r c

theorem State.togglePixel_frame (s : State) (r : Fin 32) (c : Fin 64) : SameOutside DrawPart s (s.togglePixel r c) := by
  have h2 : ∀ u : State, SameOutside DrawPart u (u.setPixel r c (!s.pixel r c)) := fun u =>
    .of_frame (u.setPixel_frame r c _) fun p hp => .inr ⟨r, c, List.mem_singleton.mp hp⟩
  unfold State.togglePixel
  split
  · exact (SameOutside.of_frame (s.setV_frame vf 1) fun p hp => .inl (List.mem_singleton.mp hp)).trans (h2 _)
  · exact h2 s

theorem State.drawRow_frame (s : State) (px py b : Byte) (row : Nat) : SameOutside DrawPart s (s.drawRow px py b row) :=
  foldl_keeps (P := SameOutside DrawPart s)
    (fun t col h => by
      split
      · exact h.trans (t.togglePixel_frame _ _)
      · exact h)
    _ _ (.refl _ s)

/-- Drawing changes only VF and pixels. -/
theorem State.drawRows_frame (s : State) (px py : Byte) (n : Nat) : SameOutside DrawPart s (s.drawRows px py n) :=
  foldl_keeps (P := SameOutside DrawPart s) (fun t row h => h.trans (t.drawRow_frame _ _ _ row)) _ _ (.refl _ s)

/-! What an instruction may change -/

/-- The parts an instruction may change, run in s. -/
def Footprint (s : State) (p : Part) : Instr → Prop
  | .cls => ∃ r c, p = .pixel r c
  | .ret => p ∈ [Part.pc, .sp, .status, .faultPc, .faultOp]
  | .jp _ => p = .pc
  | .call _ => (∃ k, p = .stackEntry k ∧ k.val = s.sp.val) ∨ p ∈ [Part.pc, .sp, .status, .faultPc, .faultOp]
  | .seImm _ _ => p = .pc
  | .sneImm _ _ => p = .pc
  | .seReg _ _ => p = .pc
  | .ldImm x _ => p = .reg x
  | .addImm x _ => p = .reg x
  | .ldReg x _ => p = .reg x
  | .orReg x _ => p = .reg x
  | .andReg x _ => p = .reg x
  | .xorReg x _ => p = .reg x
  | .addReg x _ => p ∈ [Part.reg vf, .reg x]
  | .subReg x _ => p ∈ [Part.reg vf, .reg x]
  | .shr x _ => p ∈ [Part.reg vf, .reg x]
  | .subn x _ => p ∈ [Part.reg vf, .reg x]
  | .shl x _ => p ∈ [Part.reg vf, .reg x]
  | .sneReg _ _ => p = .pc
  | .ldI _ => p = .index
  | .jpV0 _ => p = .pc
  | .rnd x _ => p ∈ [Part.reg x, .draws]
  | .drw _ _ _ => DrawPart p
  | .skp _ => p ∈ [Part.pc, .status, .faultPc, .faultOp]
  | .sknp _ => p ∈ [Part.pc, .status, .faultPc, .faultOp]
  | .ldVxDt x => p = .reg x
  | .ldVxK x => p ∈ [Part.pc, .reg x]
  | .ldDtVx _ => p = .dt
  | .ldStVx _ => p = .st
  | .addIVx _ => p = .index
  | .ldFVx _ => p = .index
  | .ldBVx _ => p ∈ (List.range 3).map fun k => Part.byte (dataAddr s.i k)
  | .storeRegs x => p ∈ (List.range (x.toNat + 1)).map fun k => Part.byte (dataAddr s.i k)
  | .loadRegs x => p ∈ (List.range (x.toNat + 1)).map fun k => Part.reg (BitVec.ofNat 4 k)

theorem execCls_footprint {s t : State} (h : execCls s = .next t) : SameOutside (Footprint s · .cls) s t := by
  cases h
  intro p hp
  cases p with
  | pixel r c => exact absurd ⟨r, c, rfl⟩ hp
  | _ => rfl

theorem execRet_footprint {s t : State} (h : execRet s = .next t) : SameOutside (Footprint s · .ret) s t := by
  unfold execRet at h
  split at h
  · next w u hp =>
    obtain ⟨k, -, -, -, hf⟩ := State.pop_some hp
    cases h
    exact (SameOutside.of_frame hf (by simp [Footprint])).trans (.of_frame (u.setPc_frame w) (by simp [Footprint]))
  · cases h
    exact .of_frame (s.raiseHalt_frame _ _ _) (by simp [Footprint])

theorem execCall_footprint {s t : State} {nnn : BitVec 12} (h : execCall nnn s = .next t) :
    SameOutside (Footprint s · (.call nnn)) s t := by
  unfold execCall at h
  split at h
  · next u hp =>
    obtain ⟨hlt, -, -, hf⟩ := State.push_some hp
    cases h
    exact (SameOutside.of_frame hf (by simp [Footprint])).trans (.of_frame (u.setPc_frame _) (by simp [Footprint]))
  · cases h
    exact .of_frame (s.raiseHalt_frame _ _ _) (by simp [Footprint])

/-- Every instruction changes only the parts of its footprint. -/
theorem exec_footprint {i : Instr} {s t : State} (h : exec i s = .next t) : SameOutside (Footprint s · i) s t := by
  cases i with
  | ret => exact execRet_footprint h
  | call nnn => exact execCall_footprint h
  | cls => exact execCls_footprint h
  | drw x y n =>
    cases h
    exact (SameOutside.of_frame (s.setV_frame vf 0) fun p hp => .inl (List.mem_singleton.mp hp)).trans
      (State.drawRows_frame _ _ _ _)
  | skp x =>
    change execSkp x s = .next t at h
    unfold execSkp at h
    split at h <;> cases h
    · exact .of_frame (s.skipIf_frame _) (by simp [Footprint])
    · exact .of_frame (s.raiseHalt_frame _ _ _) (by simp [Footprint])
  | sknp x =>
    change execSknp x s = .next t at h
    unfold execSknp at h
    split at h <;> cases h
    · exact .of_frame (s.skipIf_frame _) (by simp [Footprint])
    · exact .of_frame (s.raiseHalt_frame _ _ _) (by simp [Footprint])
  | ldVxK x =>
    change execLdVxK x s = .next t at h
    unfold execLdVxK at h
    split at h <;> cases h
    · exact .of_frame (s.setV_frame _ _) (by simp [Footprint])
    · exact .of_frame (s.setPc_frame _) (by simp [Footprint])
  | rnd x kk =>
    cases h
    exact (SameOutside.of_frame (s.setV_frame x _) (by simp [Footprint])).trans
      (.of_frame (State.nextDraw_frame _) (by simp [Footprint]))
  | ldBVx x =>
    cases h
    have hk : ∀ (u : State) (k : Nat) (b : Byte), k < 3 →
        SameOutside (Footprint s · (.ldBVx x)) u (u.writeByte (dataAddr s.i k) b) := fun u k b hlt =>
      .of_frame (u.writeByte_frame _ b) fun p hp =>
        List.mem_map.mpr ⟨k, List.mem_range.mpr hlt, (List.mem_singleton.mp hp).symm⟩
    exact ((hk _ 0 _ (by decide)).trans (hk _ 1 _ (by decide))).trans (hk _ 2 _ (by decide))
  | storeRegs x => cases h; exact .of_frame (s.storeV_frame _) fun p hp => hp
  | loadRegs x => cases h; exact .of_frame (s.loadV_frame _) fun p hp => hp
  | jp _ => cases h; exact .of_frame (s.setPc_frame _) (by simp [Footprint])
  | jpV0 _ => cases h; exact .of_frame (s.setPc_frame _) (by simp [Footprint])
  | seImm _ _ => cases h; exact .of_frame (s.skipIf_frame _) (by simp [Footprint])
  | sneImm _ _ => cases h; exact .of_frame (s.skipIf_frame _) (by simp [Footprint])
  | seReg _ _ => cases h; exact .of_frame (s.skipIf_frame _) (by simp [Footprint])
  | sneReg _ _ => cases h; exact .of_frame (s.skipIf_frame _) (by simp [Footprint])
  | ldImm _ _ => cases h; exact .of_frame (s.setV_frame _ _) (by simp [Footprint])
  | addImm _ _ => cases h; exact .of_frame (s.setV_frame _ _) (by simp [Footprint])
  | ldReg _ _ => cases h; exact .of_frame (s.setV_frame _ _) (by simp [Footprint])
  | orReg _ _ => cases h; exact .of_frame (s.setV_frame _ _) (by simp [Footprint])
  | andReg _ _ => cases h; exact .of_frame (s.setV_frame _ _) (by simp [Footprint])
  | xorReg _ _ => cases h; exact .of_frame (s.setV_frame _ _) (by simp [Footprint])
  | addReg _ _ => cases h; exact .of_frame (s.setFlagAndV_frame _ _ _) (by simp [Footprint])
  | subReg _ _ => cases h; exact .of_frame (s.setFlagAndV_frame _ _ _) (by simp [Footprint])
  | subn _ _ => cases h; exact .of_frame (s.setFlagAndV_frame _ _ _) (by simp [Footprint])
  | shr _ _ => cases h; exact .of_frame (s.setFlagAndV_frame _ _ _) (by simp [Footprint])
  | shl _ _ => cases h; exact .of_frame (s.setFlagAndV_frame _ _ _) (by simp [Footprint])
  | ldI _ => cases h; exact .of_frame (s.setI_frame _) (by simp [Footprint])
  | addIVx _ => cases h; exact .of_frame (s.setI_frame _) (by simp [Footprint])
  | ldFVx _ => cases h; exact .of_frame (s.setI_frame _) (by simp [Footprint])
  | ldVxDt _ => cases h; exact .of_frame (s.setV_frame _ _) (by simp [Footprint])
  | ldDtVx _ => cases h; exact .of_frame (s.setDt_frame _) (by simp [Footprint])
  | ldStVx _ => cases h; exact .of_frame (s.setSt_frame _) (by simp [Footprint])

/-! Raising, or leaving the records alone (R222, R225) -/

theorem execRet_raises {s t : State} (h : execRet s = .next t) :
    (s.sp.val = 0 ∧ t = s.raiseInExec .stackUnderflow) ∨ (s.sp.val ≠ 0 ∧ UnchangedBut [.pc, .sp] s t) := by
  unfold execRet at h
  split at h
  · next w u hp =>
    obtain ⟨k, hk, -, -, hf⟩ := State.pop_some hp
    cases h
    exact .inr ⟨by omega, (hf.mono (by simp)).trans ((u.setPc_frame w).mono (by simp))⟩
  · next hp =>
    cases h
    exact .inl ⟨congrArg Fin.val (State.pop_eq_none.mp hp), rfl⟩

theorem execCall_raises {s t : State} {nnn : BitVec 12} (h : execCall nnn s = .next t) :
    (s.sp.val = 16 ∧ t = s.raiseInExec .stackOverflow) ∨
    (∃ hlt : s.sp.val < 16, UnchangedBut [.pc, .sp, .stackEntry ⟨s.sp.val, hlt⟩] s t) := by
  unfold execCall at h
  split at h
  · next u hp =>
    obtain ⟨hlt, -, -, hf⟩ := State.push_some hp
    cases h
    exact .inr ⟨hlt, (hf.mono (by simp)).trans ((u.setPc_frame _).mono (by simp))⟩
  · next hp =>
    cases h
    exact .inl ⟨congrArg Fin.val (State.push_eq_none.mp hp), rfl⟩

theorem keyIndex_eq_none {b : Byte} : keyIndex b = none ↔ 0xF < b.toNat := by
  simp [keyIndex]

theorem execSkp_raises {s t : State} {x : Reg} (h : execSkp x s = .next t) :
    (0xF < (s.getV x).toNat ∧ t = s.raiseInExec .keyIndex) ∨ ((s.getV x).toNat ≤ 0xF ∧ UnchangedBut [.pc] s t) := by
  unfold execSkp at h
  split at h <;> cases h
  · next k hk =>
    exact .inr ⟨Nat.le_of_not_lt fun hn => by simp [keyIndex_eq_none.mpr hn] at hk, s.skipIf_frame _⟩
  · next hk => exact .inl ⟨keyIndex_eq_none.mp hk, rfl⟩

theorem execSknp_raises {s t : State} {x : Reg} (h : execSknp x s = .next t) :
    (0xF < (s.getV x).toNat ∧ t = s.raiseInExec .keyIndex) ∨ ((s.getV x).toNat ≤ 0xF ∧ UnchangedBut [.pc] s t) := by
  unfold execSknp at h
  split at h <;> cases h
  · next k hk =>
    exact .inr ⟨Nat.le_of_not_lt fun hn => by simp [keyIndex_eq_none.mpr hn] at hk, s.skipIf_frame _⟩
  · next hk => exact .inl ⟨keyIndex_eq_none.mp hk, rfl⟩

theorem records_same {s t : State}
    (h : ∀ p, p = Part.status ∨ p = .faultPc ∨ p = .faultOp → p.Same s t) :
    ∀ p ∈ [Part.status, .faultPc, .faultOp], p.Same s t :=
  fun p hp => h p (by simpa using hp)

/-- An instruction with an execute-stage condition that holds raises it and does nothing else; any other leaves STATUS
and the records alone. -/
theorem exec_raises {i : Instr} {s t : State} (h : exec i s = .next t) :
    (∃ c : Cause, executeCause s i = some c.code ∧ t = s.raiseInExec c) ∨
    (executeCause s i = none ∧ ∀ p ∈ [Part.status, .faultPc, .faultOp], p.Same s t) := by
  cases i with
  | ret =>
    rcases execRet_raises h with ⟨hz, rfl⟩ | ⟨hz, hf⟩
    · exact .inl ⟨.stackUnderflow, by simp [executeCause, hz, Cause.code], rfl⟩
    · exact .inr ⟨by simp [executeCause, hz], records_same fun _ hp => hf _ (by rcases hp with rfl | rfl | rfl <;> simp)⟩
  | call nnn =>
    rcases execCall_raises h with ⟨hz, rfl⟩ | ⟨hz, hf⟩
    · exact .inl ⟨.stackOverflow, by simp [executeCause, hz, Cause.code], rfl⟩
    · exact .inr ⟨by simp [executeCause]; omega, records_same fun _ hp => hf _ (by rcases hp with rfl | rfl | rfl <;> simp)⟩
  | skp x =>
    rcases execSkp_raises h with ⟨hz, rfl⟩ | ⟨hz, hf⟩
    · exact .inl ⟨.keyIndex, by simp [executeCause, hz, Cause.code], rfl⟩
    · exact .inr ⟨by simp [executeCause, Nat.not_lt.mpr hz], records_same fun _ hp => hf _ (by rcases hp with rfl | rfl | rfl <;> simp)⟩
  | sknp x =>
    rcases execSknp_raises h with ⟨hz, rfl⟩ | ⟨hz, hf⟩
    · exact .inl ⟨.keyIndex, by simp [executeCause, hz, Cause.code], rfl⟩
    · exact .inr ⟨by simp [executeCause, Nat.not_lt.mpr hz], records_same fun _ hp => hf _ (by rcases hp with rfl | rfl | rfl <;> simp)⟩
  | _ =>
    have hf := exec_footprint h
    exact .inr ⟨rfl, records_same fun _ hp => hf _ (by rcases hp with rfl | rfl | rfl <;> simp [Footprint, DrawPart])⟩

/-- HALT is a bit of STATUS, so it is the same where STATUS is. -/
theorem halted_of_same_status {s t : State} (h : Part.Same .status s t) : t.halted = s.halted :=
  congrArg statusHalt h

end Sys2Proof.Machine
end

