-- ==== Sys2Proof/Laws/PerInstr.lean ====
section
/-! SUPPORT. Laws/PerInstr.lean: two facts about every instruction as syntax, one lemma per constructor: its operand fields
fit the widths of spec 30_encoding R82 (family FieldsFit), and its word carries the fixed digits of its row of R95 (family
RowDigits). -/

namespace Sys2Proof

/-! The fixed digits of a word in each shape of R83 -/

theorem and_nnn (g : BitVec 4) (nnn : BitVec 12) : (g ++ nnn : Word) &&& 0xF000#16 = g ++ 0#12 := by
  have h : (0xF000#16 : Word) = 0xF#4 ++ 0#12 := by decide
  rw [h]
  exact (BitVec.and_append (x₁ := g) (y₁ := nnn)).trans (by revert g; simp; decide)

theorem and_xkk (g x : BitVec 4) (kk : Byte) : (g ++ x ++ kk : Word) &&& 0xF000#16 = g ++ 0#4 ++ 0#8 := by
  have h : (0xF000#16 : Word) = 0xF#4 ++ 0#4 ++ 0#8 := by decide
  rw [h]
  exact (BitVec.and_append (x₁ := g ++ x) (y₁ := kk)).trans (by
    rw [BitVec.and_append, BitVec.and_zero, BitVec.and_zero]; revert g; decide)

theorem and_xs8 (g x : BitVec 4) (kk : Byte) : (g ++ x ++ kk : Word) &&& 0xF0FF#16 = g ++ 0#4 ++ kk := by
  have h : (0xF0FF#16 : Word) = 0xF#4 ++ 0#4 ++ 0xFF#8 := by decide
  have hk : kk &&& 0xFF#8 = kk := by revert kk; decide
  have hg : g &&& 0xF#4 = g := by revert g; decide
  rw [h]
  exact (BitVec.and_append (x₁ := g ++ x) (y₁ := kk)).trans (by rw [BitVec.and_append, BitVec.and_zero, hk, hg])

theorem and_xys (g x y n : BitVec 4) : (g ++ x ++ y ++ n : Word) &&& 0xF00F#16 = g ++ 0#4 ++ 0#4 ++ n := by
  have h : (0xF00F#16 : Word) = 0xF#4 ++ 0#4 ++ 0#4 ++ 0xF#4 := by decide
  have hk : ∀ k : BitVec 4, k &&& 0xF#4 = k := by decide
  rw [h]
  exact (BitVec.and_append (x₁ := g ++ x ++ y) (y₁ := n)).trans (by
    rw [BitVec.and_append, BitVec.and_append, BitVec.and_zero, BitVec.and_zero, hk, hk])

theorem and_xyn (g x y n : BitVec 4) : (g ++ x ++ y ++ n : Word) &&& 0xF000#16 = g ++ 0#4 ++ 0#4 ++ 0#4 := by
  have h : (0xF000#16 : Word) = 0xF#4 ++ 0#4 ++ 0#4 ++ 0#4 := by decide
  have hk : ∀ k : BitVec 4, k &&& 0xF#4 = k := by decide
  rw [h]
  exact (BitVec.and_append (x₁ := g ++ x ++ y) (y₁ := n)).trans (by
    rw [BitVec.and_append, BitVec.and_append, BitVec.and_zero, BitVec.and_zero, BitVec.and_zero, hk])

/-- A field that holds a bit vector of its width fits. -/
theorem Field.fits_toNat {w : Nat} (b : BitVec w) : Field.fits ⟨b.toNat, w⟩ = true := decide_eq_true b.isLt

/-- R82, R84: every operand field of the instruction fits its width. -/
def Laws.FieldsFit.Statement (i : Instr) : Prop := i.wellFormed = true

/-- R95: the instruction's word AND the mask of its row is the row's match. -/
def Laws.RowDigits.Statement (i : Instr) : Prop := i.row.fixes (encode i) = true


theorem Laws.FieldsFit.cls : Laws.FieldsFit.Statement .cls := rfl

theorem Laws.FieldsFit.ret : Laws.FieldsFit.Statement .ret := rfl

theorem Laws.FieldsFit.jp (nnn : BitVec 12) : Laws.FieldsFit.Statement (.jp nnn) := by
  simp [Laws.FieldsFit.Statement, Instr.wellFormed, Instr.fields, Field.fits_toNat]

theorem Laws.FieldsFit.call (nnn : BitVec 12) : Laws.FieldsFit.Statement (.call nnn) := by
  simp [Laws.FieldsFit.Statement, Instr.wellFormed, Instr.fields, Field.fits_toNat]

theorem Laws.FieldsFit.seImm (x : Reg) (kk : Byte) : Laws.FieldsFit.Statement (.seImm x kk) := by
  simp [Laws.FieldsFit.Statement, Instr.wellFormed, Instr.fields, Field.fits_toNat]

theorem Laws.FieldsFit.sneImm (x : Reg) (kk : Byte) : Laws.FieldsFit.Statement (.sneImm x kk) := by
  simp [Laws.FieldsFit.Statement, Instr.wellFormed, Instr.fields, Field.fits_toNat]

theorem Laws.FieldsFit.seReg (x y : Reg) : Laws.FieldsFit.Statement (.seReg x y) := by
  simp [Laws.FieldsFit.Statement, Instr.wellFormed, Instr.fields, Field.fits_toNat]

theorem Laws.FieldsFit.ldImm (x : Reg) (kk : Byte) : Laws.FieldsFit.Statement (.ldImm x kk) := by
  simp [Laws.FieldsFit.Statement, Instr.wellFormed, Instr.fields, Field.fits_toNat]

theorem Laws.FieldsFit.addImm (x : Reg) (kk : Byte) : Laws.FieldsFit.Statement (.addImm x kk) := by
  simp [Laws.FieldsFit.Statement, Instr.wellFormed, Instr.fields, Field.fits_toNat]

theorem Laws.FieldsFit.ldReg (x y : Reg) : Laws.FieldsFit.Statement (.ldReg x y) := by
  simp [Laws.FieldsFit.Statement, Instr.wellFormed, Instr.fields, Field.fits_toNat]

theorem Laws.FieldsFit.orReg (x y : Reg) : Laws.FieldsFit.Statement (.orReg x y) := by
  simp [Laws.FieldsFit.Statement, Instr.wellFormed, Instr.fields, Field.fits_toNat]

theorem Laws.FieldsFit.andReg (x y : Reg) : Laws.FieldsFit.Statement (.andReg x y) := by
  simp [Laws.FieldsFit.Statement, Instr.wellFormed, Instr.fields, Field.fits_toNat]

theorem Laws.FieldsFit.xorReg (x y : Reg) : Laws.FieldsFit.Statement (.xorReg x y) := by
  simp [Laws.FieldsFit.Statement, Instr.wellFormed, Instr.fields, Field.fits_toNat]

theorem Laws.FieldsFit.addReg (x y : Reg) : Laws.FieldsFit.Statement (.addReg x y) := by
  simp [Laws.FieldsFit.Statement, Instr.wellFormed, Instr.fields, Field.fits_toNat]

theorem Laws.FieldsFit.subReg (x y : Reg) : Laws.FieldsFit.Statement (.subReg x y) := by
  simp [Laws.FieldsFit.Statement, Instr.wellFormed, Instr.fields, Field.fits_toNat]

theorem Laws.FieldsFit.shr (x y : Reg) : Laws.FieldsFit.Statement (.shr x y) := by
  simp [Laws.FieldsFit.Statement, Instr.wellFormed, Instr.fields, Field.fits_toNat]

theorem Laws.FieldsFit.subn (x y : Reg) : Laws.FieldsFit.Statement (.subn x y) := by
  simp [Laws.FieldsFit.Statement, Instr.wellFormed, Instr.fields, Field.fits_toNat]

theorem Laws.FieldsFit.shl (x y : Reg) : Laws.FieldsFit.Statement (.shl x y) := by
  simp [Laws.FieldsFit.Statement, Instr.wellFormed, Instr.fields, Field.fits_toNat]

theorem Laws.FieldsFit.sneReg (x y : Reg) : Laws.FieldsFit.Statement (.sneReg x y) := by
  simp [Laws.FieldsFit.Statement, Instr.wellFormed, Instr.fields, Field.fits_toNat]

theorem Laws.FieldsFit.ldI (nnn : BitVec 12) : Laws.FieldsFit.Statement (.ldI nnn) := by
  simp [Laws.FieldsFit.Statement, Instr.wellFormed, Instr.fields, Field.fits_toNat]

theorem Laws.FieldsFit.jpV0 (nnn : BitVec 12) : Laws.FieldsFit.Statement (.jpV0 nnn) := by
  simp [Laws.FieldsFit.Statement, Instr.wellFormed, Instr.fields, Field.fits_toNat]

theorem Laws.FieldsFit.rnd (x : Reg) (kk : Byte) : Laws.FieldsFit.Statement (.rnd x kk) := by
  simp [Laws.FieldsFit.Statement, Instr.wellFormed, Instr.fields, Field.fits_toNat]

theorem Laws.FieldsFit.drw (x y : Reg) (n : BitVec 4) : Laws.FieldsFit.Statement (.drw x y n) := by
  simp [Laws.FieldsFit.Statement, Instr.wellFormed, Instr.fields, Field.fits_toNat]

theorem Laws.FieldsFit.skp (x : Reg) : Laws.FieldsFit.Statement (.skp x) := by
  simp [Laws.FieldsFit.Statement, Instr.wellFormed, Instr.fields, Field.fits_toNat]

theorem Laws.FieldsFit.sknp (x : Reg) : Laws.FieldsFit.Statement (.sknp x) := by
  simp [Laws.FieldsFit.Statement, Instr.wellFormed, Instr.fields, Field.fits_toNat]

theorem Laws.FieldsFit.ldVxDt (x : Reg) : Laws.FieldsFit.Statement (.ldVxDt x) := by
  simp [Laws.FieldsFit.Statement, Instr.wellFormed, Instr.fields, Field.fits_toNat]

theorem Laws.FieldsFit.ldVxK (x : Reg) : Laws.FieldsFit.Statement (.ldVxK x) := by
  simp [Laws.FieldsFit.Statement, Instr.wellFormed, Instr.fields, Field.fits_toNat]

theorem Laws.FieldsFit.ldDtVx (x : Reg) : Laws.FieldsFit.Statement (.ldDtVx x) := by
  simp [Laws.FieldsFit.Statement, Instr.wellFormed, Instr.fields, Field.fits_toNat]

theorem Laws.FieldsFit.ldStVx (x : Reg) : Laws.FieldsFit.Statement (.ldStVx x) := by
  simp [Laws.FieldsFit.Statement, Instr.wellFormed, Instr.fields, Field.fits_toNat]

theorem Laws.FieldsFit.addIVx (x : Reg) : Laws.FieldsFit.Statement (.addIVx x) := by
  simp [Laws.FieldsFit.Statement, Instr.wellFormed, Instr.fields, Field.fits_toNat]

theorem Laws.FieldsFit.ldFVx (x : Reg) : Laws.FieldsFit.Statement (.ldFVx x) := by
  simp [Laws.FieldsFit.Statement, Instr.wellFormed, Instr.fields, Field.fits_toNat]

theorem Laws.FieldsFit.ldBVx (x : Reg) : Laws.FieldsFit.Statement (.ldBVx x) := by
  simp [Laws.FieldsFit.Statement, Instr.wellFormed, Instr.fields, Field.fits_toNat]

theorem Laws.FieldsFit.storeRegs (x : Reg) : Laws.FieldsFit.Statement (.storeRegs x) := by
  simp [Laws.FieldsFit.Statement, Instr.wellFormed, Instr.fields, Field.fits_toNat]

theorem Laws.FieldsFit.loadRegs (x : Reg) : Laws.FieldsFit.Statement (.loadRegs x) := by
  simp [Laws.FieldsFit.Statement, Instr.wellFormed, Instr.fields, Field.fits_toNat]

theorem Laws.RowDigits.cls : Laws.RowDigits.Statement .cls := decide_eq_true (by decide)

theorem Laws.RowDigits.ret : Laws.RowDigits.Statement .ret := decide_eq_true (by decide)

theorem Laws.RowDigits.jp (nnn : BitVec 12) : Laws.RowDigits.Statement (.jp nnn) :=
  decide_eq_true ((and_nnn 0x1#4 nnn).trans rfl)

theorem Laws.RowDigits.call (nnn : BitVec 12) : Laws.RowDigits.Statement (.call nnn) :=
  decide_eq_true ((and_nnn 0x2#4 nnn).trans rfl)

theorem Laws.RowDigits.seImm (x : Reg) (kk : Byte) : Laws.RowDigits.Statement (.seImm x kk) :=
  decide_eq_true ((and_xkk 0x3#4 x kk).trans rfl)

theorem Laws.RowDigits.sneImm (x : Reg) (kk : Byte) : Laws.RowDigits.Statement (.sneImm x kk) :=
  decide_eq_true ((and_xkk 0x4#4 x kk).trans rfl)

theorem Laws.RowDigits.seReg (x y : Reg) : Laws.RowDigits.Statement (.seReg x y) :=
  decide_eq_true ((and_xys 0x5#4 x y 0x0#4).trans rfl)

theorem Laws.RowDigits.ldImm (x : Reg) (kk : Byte) : Laws.RowDigits.Statement (.ldImm x kk) :=
  decide_eq_true ((and_xkk 0x6#4 x kk).trans rfl)

theorem Laws.RowDigits.addImm (x : Reg) (kk : Byte) : Laws.RowDigits.Statement (.addImm x kk) :=
  decide_eq_true ((and_xkk 0x7#4 x kk).trans rfl)

theorem Laws.RowDigits.ldReg (x y : Reg) : Laws.RowDigits.Statement (.ldReg x y) :=
  decide_eq_true ((and_xys 0x8#4 x y 0x0#4).trans rfl)

theorem Laws.RowDigits.orReg (x y : Reg) : Laws.RowDigits.Statement (.orReg x y) :=
  decide_eq_true ((and_xys 0x8#4 x y 0x1#4).trans rfl)

theorem Laws.RowDigits.andReg (x y : Reg) : Laws.RowDigits.Statement (.andReg x y) :=
  decide_eq_true ((and_xys 0x8#4 x y 0x2#4).trans rfl)

theorem Laws.RowDigits.xorReg (x y : Reg) : Laws.RowDigits.Statement (.xorReg x y) :=
  decide_eq_true ((and_xys 0x8#4 x y 0x3#4).trans rfl)

theorem Laws.RowDigits.addReg (x y : Reg) : Laws.RowDigits.Statement (.addReg x y) :=
  decide_eq_true ((and_xys 0x8#4 x y 0x4#4).trans rfl)

theorem Laws.RowDigits.subReg (x y : Reg) : Laws.RowDigits.Statement (.subReg x y) :=
  decide_eq_true ((and_xys 0x8#4 x y 0x5#4).trans rfl)

theorem Laws.RowDigits.shr (x y : Reg) : Laws.RowDigits.Statement (.shr x y) :=
  decide_eq_true ((and_xys 0x8#4 x y 0x6#4).trans rfl)

theorem Laws.RowDigits.subn (x y : Reg) : Laws.RowDigits.Statement (.subn x y) :=
  decide_eq_true ((and_xys 0x8#4 x y 0x7#4).trans rfl)

theorem Laws.RowDigits.shl (x y : Reg) : Laws.RowDigits.Statement (.shl x y) :=
  decide_eq_true ((and_xys 0x8#4 x y 0xE#4).trans rfl)

theorem Laws.RowDigits.sneReg (x y : Reg) : Laws.RowDigits.Statement (.sneReg x y) :=
  decide_eq_true ((and_xys 0x9#4 x y 0x0#4).trans rfl)

theorem Laws.RowDigits.ldI (nnn : BitVec 12) : Laws.RowDigits.Statement (.ldI nnn) :=
  decide_eq_true ((and_nnn 0xA#4 nnn).trans rfl)

theorem Laws.RowDigits.jpV0 (nnn : BitVec 12) : Laws.RowDigits.Statement (.jpV0 nnn) :=
  decide_eq_true ((and_nnn 0xB#4 nnn).trans rfl)

theorem Laws.RowDigits.rnd (x : Reg) (kk : Byte) : Laws.RowDigits.Statement (.rnd x kk) :=
  decide_eq_true ((and_xkk 0xC#4 x kk).trans rfl)

theorem Laws.RowDigits.drw (x y : Reg) (n : BitVec 4) : Laws.RowDigits.Statement (.drw x y n) :=
  decide_eq_true ((and_xyn 0xD#4 x y n).trans rfl)

theorem Laws.RowDigits.skp (x : Reg) : Laws.RowDigits.Statement (.skp x) :=
  decide_eq_true ((and_xs8 0xE#4 x 0x9E#8).trans rfl)

theorem Laws.RowDigits.sknp (x : Reg) : Laws.RowDigits.Statement (.sknp x) :=
  decide_eq_true ((and_xs8 0xE#4 x 0xA1#8).trans rfl)

theorem Laws.RowDigits.ldVxDt (x : Reg) : Laws.RowDigits.Statement (.ldVxDt x) :=
  decide_eq_true ((and_xs8 0xF#4 x 0x07#8).trans rfl)

theorem Laws.RowDigits.ldVxK (x : Reg) : Laws.RowDigits.Statement (.ldVxK x) :=
  decide_eq_true ((and_xs8 0xF#4 x 0x0A#8).trans rfl)

theorem Laws.RowDigits.ldDtVx (x : Reg) : Laws.RowDigits.Statement (.ldDtVx x) :=
  decide_eq_true ((and_xs8 0xF#4 x 0x15#8).trans rfl)

theorem Laws.RowDigits.ldStVx (x : Reg) : Laws.RowDigits.Statement (.ldStVx x) :=
  decide_eq_true ((and_xs8 0xF#4 x 0x18#8).trans rfl)

theorem Laws.RowDigits.addIVx (x : Reg) : Laws.RowDigits.Statement (.addIVx x) :=
  decide_eq_true ((and_xs8 0xF#4 x 0x1E#8).trans rfl)

theorem Laws.RowDigits.ldFVx (x : Reg) : Laws.RowDigits.Statement (.ldFVx x) :=
  decide_eq_true ((and_xs8 0xF#4 x 0x29#8).trans rfl)

theorem Laws.RowDigits.ldBVx (x : Reg) : Laws.RowDigits.Statement (.ldBVx x) :=
  decide_eq_true ((and_xs8 0xF#4 x 0x33#8).trans rfl)

theorem Laws.RowDigits.storeRegs (x : Reg) : Laws.RowDigits.Statement (.storeRegs x) :=
  decide_eq_true ((and_xs8 0xF#4 x 0x55#8).trans rfl)

theorem Laws.RowDigits.loadRegs (x : Reg) : Laws.RowDigits.Statement (.loadRegs x) :=
  decide_eq_true ((and_xs8 0xF#4 x 0x65#8).trans rfl)

end Sys2Proof
end

