-- ==== Sys2Proof/Laws/Transactions.lean ====
section
/-! SUPPORT. Laws/Transactions.lean: what LOAD's copy loop and KEYS_WRITE do (spec 10_state R51, R52). -/

namespace Sys2Proof.Machine

/-- Copying an image changes only the bytes it is copied to. -/
theorem State.storeImage_frame (s : State) (a : Nat) (image : List Byte) :
    UnchangedBut ((List.range image.length).map fun j => .byte (BitVec.ofNat 12 (a + j))) s (s.storeImage a image) := by
  induction image generalizing s a with
  | nil => exact .refl _ s
  | cons b rest ih =>
    have hmem : ∀ j < rest.length + 1,
        Part.byte (BitVec.ofNat 12 (a + j)) ∈
          (List.range (rest.length + 1)).map fun j => Part.byte (BitVec.ofNat 12 (a + j)) :=
      fun j hj => List.mem_map.mpr ⟨j, List.mem_range.mpr hj, rfl⟩
    refine ((s.writeByte_frame _ b).mono fun p hp => ?_).trans ((ih (s.writeByte _ b) (a + 1)).mono fun p hp => ?_)
    · rw [List.mem_singleton.mp hp]
      exact hmem 0 (Nat.succ_pos _)
    · obtain ⟨j, hj, rfl⟩ := List.mem_map.mp hp
      have := hmem (j + 1) (Nat.succ_lt_succ (List.mem_range.mp hj))
      rwa [← Nat.add_assoc, Nat.add_right_comm] at this

/-- Copying an image keeps the memory's canonical form. -/
theorem State.storeImage_canonical {s : State} (h : MemoryCanonical s) (a : Nat) (image : List Byte) :
    MemoryCanonical (s.storeImage a image) := by
  induction image generalizing s a with
  | nil => exact h
  | cons b rest ih => exact ih (State.writeByte_canonical h _ b) (a + 1)

theorem State.key_keysWrite (s : State) (k16 : BitVec 16) (k : BitVec 4) :
    (s.keysWrite k16).key k = k16.getLsbD k.toNat := by
  simp [State.key, State.keysWrite, -BitVec.getLsbD_eq_getElem]

end Sys2Proof.Machine
end

