-- ==== Sys2Proof/Tests/Slice0.lean ====
section
/-! SUPPORT. Tests/Slice0.lean: one-step tests whose expected results are the vectors of spec 95_test_vectors, decode tests on
words written out from the encodings of 30_encoding R95, and for every statement with hypotheses a witness that meets
them. -/

namespace Sys2Proof.Tests

open Sys2Proof.Machine

/-! ## Ill-formed terms are refused (30_encoding R82, 00_scope R8, 10_state R52) -/

theorem test_field_too_wide : Field.fits ⟨16, 4⟩ = false := by decide
theorem test_field_widest : Field.fits ⟨15, 4⟩ = true := by decide
theorem test_font_base_too_high : RawConfig.check ⟨0x1B1, List.replicate 80 0⟩ = none := by decide
theorem test_font_too_short : RawConfig.check ⟨0x050, List.replicate 79 0⟩ = none := by decide
theorem test_font_base_highest : RawConfig.wellFormed ⟨0x1B0, List.replicate 80 0⟩ = true := by decide
theorem test_image_too_long : imageFits (List.replicate 3585 0) = false :=
  decide_eq_false (by rw [List.length_replicate]; decide)
theorem test_image_longest : imageFits (List.replicate 3584 0) = true :=
  decide_eq_true (by rw [List.length_replicate])

/-! ## Decoding, each word written out nibble by nibble from R83 and R95 -/

/-- A word from its four nibbles, the most significant first (R82). -/
def nibbles (a b c d : BitVec 4) : Word := a ++ b ++ c ++ d

theorem test_decode_cls : decode (nibbles 0b0000 0b0000 0b1110 0b0000) = .inst (.cls) := by decide
theorem test_decode_ret : decode (nibbles 0b0000 0b0000 0b1110 0b1110) = .inst (.ret) := by decide
theorem test_decode_jp : decode (nibbles 0b0001 0b0010 0b0011 0b0100) = .inst (.jp 0x234) := by decide
theorem test_decode_call : decode (nibbles 0b0010 0b0010 0b0001 0b0000) = .inst (.call 0x210) := by decide
theorem test_decode_seImm : decode (nibbles 0b0011 0b1010 0b0001 0b0000) = .inst (.seImm 0xA 0x10) := by decide
theorem test_decode_sneImm : decode (nibbles 0b0100 0b0011 0b0001 0b0001) = .inst (.sneImm 3 0x11) := by decide
theorem test_decode_seReg : decode (nibbles 0b0101 0b0001 0b0010 0b0000) = .inst (.seReg 1 2) := by decide
theorem test_decode_ldImm : decode (nibbles 0b0110 0b1010 0b0111 0b1011) = .inst (.ldImm 0xA 0x7B) := by decide
theorem test_decode_addImm : decode (nibbles 0b0111 0b0000 0b1111 0b1111) = .inst (.addImm 0 0xFF) := by decide
theorem test_decode_ldReg : decode (nibbles 0b1000 0b0001 0b0010 0b0000) = .inst (.ldReg 1 2) := by decide
theorem test_decode_orReg : decode (nibbles 0b1000 0b0001 0b0010 0b0001) = .inst (.orReg 1 2) := by decide
theorem test_decode_andReg : decode (nibbles 0b1000 0b0001 0b0010 0b0010) = .inst (.andReg 1 2) := by decide
theorem test_decode_xorReg : decode (nibbles 0b1000 0b0001 0b0010 0b0011) = .inst (.xorReg 1 2) := by decide
theorem test_decode_addReg : decode (nibbles 0b1000 0b1111 0b0001 0b0100) = .inst (.addReg 0xF 1) := by decide
theorem test_decode_subReg : decode (nibbles 0b1000 0b0001 0b1111 0b0101) = .inst (.subReg 1 0xF) := by decide
theorem test_decode_shr : decode (nibbles 0b1000 0b0001 0b1111 0b0110) = .inst (.shr 1 0xF) := by decide
theorem test_decode_subn : decode (nibbles 0b1000 0b0001 0b0010 0b0111) = .inst (.subn 1 2) := by decide
theorem test_decode_shl : decode (nibbles 0b1000 0b1111 0b0000 0b1110) = .inst (.shl 0xF 0) := by decide
theorem test_decode_sneReg : decode (nibbles 0b1001 0b0001 0b0010 0b0000) = .inst (.sneReg 1 2) := by decide
theorem test_decode_ldI : decode (nibbles 0b1010 0b1111 0b1111 0b1110) = .inst (.ldI 0xFFE) := by decide
theorem test_decode_jpV0 : decode (nibbles 0b1011 0b0011 0b0000 0b0001) = .inst (.jpV0 0x301) := by decide
theorem test_decode_rnd : decode (nibbles 0b1100 0b0011 0b0000 0b1111) = .inst (.rnd 3 0x0F) := by decide
theorem test_decode_drw : decode (nibbles 0b1101 0b0000 0b0001 0b0101) = .inst (.drw 0 1 5) := by decide
theorem test_decode_skp : decode (nibbles 0b1110 0b0101 0b1001 0b1110) = .inst (.skp 5) := by decide
theorem test_decode_sknp : decode (nibbles 0b1110 0b0101 0b1010 0b0001) = .inst (.sknp 5) := by decide
theorem test_decode_ldVxDt : decode (nibbles 0b1111 0b0011 0b0000 0b0111) = .inst (.ldVxDt 3) := by decide
theorem test_decode_ldVxK : decode (nibbles 0b1111 0b0010 0b0000 0b1010) = .inst (.ldVxK 2) := by decide
theorem test_decode_ldDtVx : decode (nibbles 0b1111 0b0000 0b0001 0b0101) = .inst (.ldDtVx 0) := by decide
theorem test_decode_ldStVx : decode (nibbles 0b1111 0b0001 0b0001 0b1000) = .inst (.ldStVx 1) := by decide
theorem test_decode_addIVx : decode (nibbles 0b1111 0b0010 0b0001 0b1110) = .inst (.addIVx 2) := by decide
theorem test_decode_ldFVx : decode (nibbles 0b1111 0b0000 0b0010 0b1001) = .inst (.ldFVx 0) := by decide
theorem test_decode_ldBVx : decode (nibbles 0b1111 0b0100 0b0011 0b0011) = .inst (.ldBVx 4) := by decide
theorem test_decode_storeRegs : decode (nibbles 0b1111 0b1111 0b0101 0b0101) = .inst (.storeRegs 0xF) := by decide
theorem test_decode_loadRegs : decode (nibbles 0b1111 0b0010 0b0110 0b0101) = .inst (.loadRegs 2) := by decide

/-! Unknown words (95 L2.1) -/

theorem test_unknown_0120 : decode (nibbles 0b0000 0b0001 0b0010 0b0000) = .unknown .group0 := by decide
theorem test_unknown_00E1 : decode (nibbles 0b0000 0b0000 0b1110 0b0001) = .unknown .group0 := by decide
theorem test_unknown_5121 : decode (nibbles 0b0101 0b0001 0b0010 0b0001) = .unknown .group5 := by decide
theorem test_unknown_8008 : decode (nibbles 0b1000 0b0000 0b0000 0b1000) = .unknown .group8 := by decide
theorem test_unknown_9001 : decode (nibbles 0b1001 0b0000 0b0000 0b0001) = .unknown .group9 := by decide
theorem test_unknown_E00E : decode (nibbles 0b1110 0b0000 0b0000 0b1110) = .unknown .groupE := by decide
theorem test_unknown_F0FF : decode (nibbles 0b1111 0b0000 0b1111 0b1111) = .unknown .groupF := by decide

theorem test_table_word : decodeTableWord 16 0xD015 = some (.drw 0 1 5) := by decide
theorem test_table_word_unknown : decodeTableWord 16 0x8008 = none := by decide
theorem test_bytes_high_first : decodeBytes [0x12, 0x34, 0x56] = (.inst (.jp 0x234), [0x56]) := by decide
theorem test_bytes_truncated : decodeBytes [0x12] = (.unknown .truncated, [0x12]) := by decide
theorem test_encode : (encodeBytes (.addReg 1 2), encode (.skp 5)) = ([0x81, 0x24], 0xE59E#16) := by decide

/-! ## One step of each instruction (95 L1 and L2; A = 0x200 unless the row says otherwise) -/

/-- The state a step answers. -/
def next (s : State) : State :=
  match step s with
  | .next t => t
  | .fault _ => s
  | .refused _ => s

/-- The state after one cycle that fetches w at pc. -/
def after (w : Nat) (s : State) : State := next (s.withFetchWord 16 w)

/-- The reset state with V[x] = b. -/
def with1 (x : Reg) (b : Byte) : State := State.reset.setV x b

/-- The reset state with V[x] = b and V[y] = c. -/
def with2 (x : Reg) (b : Byte) (y : Reg) (c : Byte) : State := (with1 x b).setV y c

/-- V[x] and VF at the end of a cycle. -/
def flagAnd (x : Reg) (s : State) : Byte × Byte := (s.getV x, s.getV vf)

/-- The reset state with stack pointer p and the entry below it w. -/
def withStack (p : Fin 17) (w : Word) : State :=
  { State.reset with sp := p, stack := Vector.replicate 16 w }

/-- The reset state with I = w, and byte b at address a. -/
def withByte (w : Word) (a : Addr) (b : Byte) : State := (State.reset.setI w).writeByte a b

/-- Three bytes from an address on, each at its own 12-bit address. -/
def bytes3 (a : Addr) (s : State) : List Byte := [s.readByte a, s.readByte (a + 1), s.readByte (a + 2)]

/-- The records (10_state R40 to R45). -/
def records (s : State) : List Nat := [s.status.toNat, s.faultPc.toNat, s.faultOp.toNat, s.pc.toNat]

theorem test_cls_clears : (after 0x00E0 (State.reset.setPixel 3 7 true)).pixel 3 7 = false := by decide
theorem test_ret_pops : ((after 0x00EE (withStack 1 0x206)).pc, (after 0x00EE (withStack 1 0x206)).sp) = (0x206, 0) := by decide
theorem test_ret_underflow : records (after 0x00EE State.reset) = [0x09, 0x200, 0x00EE, 0x200] := by decide
theorem test_jp : (after 0x1208 State.reset).pc = 0x208 := by decide
theorem test_call_pushes : ((after 0x2210 (State.reset.setPc 0x204)).stackAt 0, (after 0x2210 (State.reset.setPc 0x204)).pc) = (0x206, 0x210) := by decide
theorem test_call_overflow : records (after 0x2300 { withStack 16 0x202 with pc := 0x400 }) = [0x07, 0x400, 0x2300, 0x400] := by decide
theorem test_jp_v0 : (after 0xB300 (with1 0 0x04)).pc = 0x304 := by decide
theorem test_jp_v0_no_wrap : (after 0xBFFF (with1 0 0xFF)).pc = 0x10FE := by decide
theorem test_se_imm_skips : (after 0x3310 (with1 3 0x10)).pc = 0x204 := by decide
theorem test_se_imm_stays : (after 0x3311 (with1 3 0x10)).pc = 0x202 := by decide
theorem test_sne_imm_stays : (after 0x4310 (with1 3 0x10)).pc = 0x202 := by decide
theorem test_sne_imm_skips : (after 0x4311 (with1 3 0x10)).pc = 0x204 := by decide
theorem test_se_reg_skips : (after 0x5120 (with2 1 7 2 7)).pc = 0x204 := by decide
theorem test_se_reg_stays : (after 0x5120 (with2 1 7 2 8)).pc = 0x202 := by decide
theorem test_sne_reg_skips : (after 0x9120 (with2 1 7 2 8)).pc = 0x204 := by decide
theorem test_sne_reg_same : (after 0x9110 (with1 1 7)).pc = 0x202 := by decide
theorem test_skp_pressed : (after 0xE59E ((with1 5 0x0A).keysWrite 0x0400)).pc = 0x204 := by decide
theorem test_skp_key_index : records (after 0xE59E (with1 5 0x10)) = [0x0B, 0x200, 0xE59E, 0x200] := by decide
theorem test_sknp_released : (after 0xE5A1 (with1 5 0x0A)).pc = 0x204 := by decide
theorem test_sknp_pressed : (after 0xE5A1 ((with1 5 0x0A).keysWrite 0x0400)).pc = 0x202 := by decide
theorem test_ld_imm : (after 0x6AFF State.reset).getV 0xA = 0xFF := by decide
theorem test_add_imm_wraps : flagAnd 0 (after 0x700A (with2 0 0xFA vf 0x5A)) = (0x04, 0x5A) := by decide
theorem test_add_imm_vf : (after 0x7F01 (with1 vf 0xFF)).getV vf = 0x00 := by decide
theorem test_ld_reg : (after 0x8120 (with2 1 0x12 2 0x34)).getV 1 = 0x34 := by decide
theorem test_or_keeps_vf : flagAnd 1 (after 0x8121 ((with2 1 0x0F 2 0xF0).setV vf 0x55)) = (0xFF, 0x55) := by decide
theorem test_and : (after 0x8122 (with2 1 0x3C 2 0x0F)).getV 1 = 0x0C := by decide
theorem test_xor : (after 0x8123 (with2 1 0x3C 2 0x0F)).getV 1 = 0x33 := by decide
theorem test_xor_same : (after 0x8113 (with1 1 0x3C)).getV 1 = 0x00 := by decide
theorem test_add_carry : flagAnd 1 (after 0x8124 (with2 1 0xFF 2 0x01)) = (0x00, 1) := by decide
theorem test_add_into_vf : flagAnd 1 (after 0x8F14 (with2 1 0x90 vf 0x80)) = (0x90, 0x10) := by decide
theorem test_sub_borrow : flagAnd 1 (after 0x8125 (with2 1 0x03 2 0x05)) = (0xFE, 0) := by decide
theorem test_sub_equal_is_strict : flagAnd 1 (after 0x8125 (with2 1 0x07 2 0x07)) = (0x00, 0) := by decide
theorem test_shr_ignores_vy : flagAnd 1 (after 0x8126 (with2 1 0x03 2 0xAA)) = (0x01, 1) := by decide
theorem test_shr_into_vf : (after 0x8F06 (with1 vf 0x04)).getV vf = 0x02 := by decide
theorem test_subn : flagAnd 1 (after 0x8127 (with2 1 0x03 2 0x05)) = (0x02, 1) := by decide
theorem test_subn_equal_is_strict : flagAnd 1 (after 0x8127 (with2 1 0x09 2 0x09)) = (0x00, 0) := by decide
theorem test_shl : flagAnd 1 (after 0x810E (with1 1 0x81)) = (0x02, 1) := by decide
theorem test_shl_into_vf : (after 0x8F0E (with1 vf 0x81)).getV vf = 0x02 := by decide
theorem test_rnd_mask_zero : ∃ t, exec (.rnd 3 0x00) State.reset = .next t ∧ t.getV 3 = 0x00 :=
  ⟨_, rfl, (State.getV_setV_self _ _ _).trans BitVec.and_zero⟩
theorem test_ld_i : (after 0xAFFF (State.reset.setI 0x1234)).i = 0x0FFF := by decide
theorem test_add_i_not_reduced : (after 0xF21E ((with1 2 0x05).setI 0x0FFE)).i = 0x1003 := by decide
theorem test_add_i_wraps : (after 0xF01E ((with1 0 0x01).setI 0xFFFF)).i = 0x0000 := by decide
theorem test_ld_f : (after 0xF029 (with1 0 0x0A)).i = 0x0082 := by decide
theorem test_ld_f_not_masked : (after 0xF029 (with1 0 0xFF)).i = 0x054B := by decide
theorem test_bcd_255 : bytes3 0x300 (after 0xF433 ((with1 4 0xFF).setI 0x300)) = [2, 5, 5] := by decide
theorem test_bcd_wraps : bytes3 0xFFF (after 0xF433 ((with1 4 0x7B).setI 0xFFF)) = [1, 2, 3] := by decide
theorem test_store_wraps : bytes3 0xFFE (after 0xF255 (((with2 0 0xAA 1 0xBB).setV 2 0xCC).setI 0xFFE)) = [0xAA, 0xBB, 0xCC] := by decide
theorem test_store_keeps_i_and_the_next_byte : ((after 0xF155 ((with2 0 1 1 2).setI 0x300)).i, bytes3 0x300 (after 0xF155 ((with2 0 1 1 2).setI 0x300))) = (0x300, [1, 2, 0]) := by decide
theorem test_load_glyph : (after 0xF465 (State.reset.setI 0x050)).v.toList.take 6 = [0xF0, 0x90, 0x90, 0x90, 0xF0, 0] := by decide
theorem test_load_vf : (after 0xFF65 (withByte 0x300 0x30F 0x77)).getV vf = 0x77 := by decide

/-- The lit pixels of the first n rows, by row. -/
def lit (n : Nat) (s : State) : List (Nat × Nat) :=
  ((List.finRange 32).take n).flatMap fun r =>
    ((List.finRange 64).filter fun c => s.pixel r c).map fun c => (r.val, c.val)

theorem test_drw_wraps_columns : lit 1 (after 0xD011 ((withByte 0x300 0x300 0xFF).setV 0 0x3C)) = [(0, 0), (0, 1), (0, 2), (0, 3), (0, 60), (0, 61), (0, 62), (0, 63)] := by decide
theorem test_drw_x_in_vf_collides : flagAnd 0 (after 0xDF01 (((withByte 0x300 0x300 0x80).setV vf 0x05).setPixel 0 5 true)) = (0, 1) := by decide
theorem test_ld_vx_dt : ((after 0xF307 (State.reset.setDt 5)).getV 3, (after 0xF307 (State.reset.setDt 5)).dt) = (5, 4) := by decide
theorem test_ld_vx_k_waits : ((after 0xF20A ((State.reset.setPc 0x206).setDt 2)).pc, (after 0xF20A ((State.reset.setPc 0x206).setDt 2)).dt) = (0x206, 1) := by decide
theorem test_ld_vx_k_lowest : ((after 0xF20A (State.reset.keysWrite 0x0420)).getV 2, (after 0xF20A (State.reset.keysWrite 0x0420)).pc) = (5, 0x202) := by decide
theorem test_ld_dt_counts_down : (after 0xF015 (with1 0 3)).dt = 2 := by decide
theorem test_ld_st_counts_down : (after 0xF018 (with1 0 2)).st = 1 := by decide

/-! ## The cycle, the records and the transactions (95 L2.8, L2.9) -/

theorem test_fetch_big_endian : (after 0x1234 State.reset).opcode = 0x1234 := by decide
theorem test_unknown_is_reported : ((after 0x0120 State.reset).status, (after 0x0120 State.reset).unkOp, (after 0x0120 State.reset).unkPc, (after 0x0120 State.reset).pc) = (0x10, 0x0120, 0x200, 0x202) := by decide
theorem test_fetch_range : records (next (State.reset.setPc 0x1000)) = [0x05, 0x1000, 0, 0x1000] := by decide
theorem test_fetch_misaligned_first : records (next (State.reset.setPc 0xFFF)) = [0x03, 0xFFF, 0, 0xFFF] := by decide
theorem test_fatal_freezes_the_timers : (next ((State.reset.setPc 0x1000).setDt 5)).dt = 5 := by decide
theorem test_fatal_restores_the_latch : (after 0x00EE (State.reset.setOpcode 0xABCD)).opcode = 0xABCD := by decide
theorem test_load_too_large : (State.reset.load (List.replicate 3585 0)).status = 0x20 := by
  rw [State.load, test_image_too_long]; decide
theorem test_load_places_bytes : bytes3 0x200 (State.reset.load [0x12, 0x34]) = [0x12, 0x34, 0] := by decide
theorem test_reset_font : bytes3 0x04F State.reset = [0, 0xF0, 0x90] := by decide

/-! ## Witnesses: for each statement with hypotheses, a state and operands that meet them, clause by clause -/

/-- The reset state with w placed where it fetches. -/
def placed (w : Nat) : State := State.reset.withFetchWord 16 w

/-- A halted state: a fetch condition raised at 0x201. -/
def stopped : State := next (State.reset.setPc 0x201)

theorem witness_EncodeOfDecode : decode 0x8124#16 = .inst (.addReg 1 2) := by decide

theorem witness_DecodeMatchesTheTable_row :
    Instr.row (.skp 0) ∈ opcodeRows ∧ (Instr.row (.skp 0)).fixes 0xEF9E = true := by decide
theorem witness_DecodeMatchesTheTable_unknown : ∀ r ∈ opcodeRows, r.fixes 0xE00E = false := by decide

theorem witness_StepRunsTheDecodedInstruction :
    Fetches (placed 0x700A) ∧ decode (fetchedWord (placed 0x700A)) = .inst (.addImm 0 0x0A) := by decide
theorem witness_StepRunsTheDecodedInstruction_top :
    Fetches ((State.reset.setPc 0xFFE).withFetchWord 16 0x3000) ∧
      decode (fetchedWord ((State.reset.setPc 0xFFE).withFetchWord 16 0x3000)) = .inst (.seImm 0 0) := by decide

theorem witness_FetchChecksItsAddress_odd :
    Running (State.reset.setPc 0xFFF) ∧ (State.reset.setPc 0xFFF).pc.toNat % 2 = 1 := by decide
theorem witness_FetchChecksItsAddress_high :
    Running (State.reset.setPc 0x1000) ∧ (State.reset.setPc 0x1000).pc.toNat % 2 = 0 ∧
      0xFFE < (State.reset.setPc 0x1000).pc.toNat := by decide

theorem witness_HaltedCycleChangesNothing :
    stopped.halted = true ∧ transact (.keysWrite 0x0001) stopped = .next (stopped.keysWrite 0x0001) ∧
      Transaction.keysWrite 0x0001 ≠ .reset := ⟨by decide, rfl, by decide⟩

theorem witness_UnknownWordIsAReportedNoOp :
    Fetches (placed 0x0120) ∧ decode (fetchedWord (placed 0x0120)) = .unknown .group0 := by decide
theorem witness_UnknownWordIsAReportedNoOp_top :
    Fetches (State.reset.setPc 0xFFE) ∧ decode (fetchedWord (State.reset.setPc 0xFFE)) = .unknown .group0 := by decide

theorem witness_FatalConditionsFollowTheTable_each :
    fatalCause (State.reset.setPc 0xFFF) = some (1, 0) ∧ fatalCause (State.reset.setPc 0x1000) = some (2, 0) ∧
      fatalCause ({ State.reset with sp := 16 }.withFetchWord 16 0x2300) = some (3, 0x2300) ∧
      fatalCause (placed 0x00EE) = some (4, 0x00EE) ∧
      fatalCause ((with1 5 0x10).withFetchWord 16 0xE5A1) = some (5, 0xE5A1) := by decide
theorem witness_FatalConditionsFollowTheTable_none :
    Running (placed 0x6AFF) ∧ fatalCause (placed 0x6AFF) = none ∧ ∃ t, step (placed 0x6AFF) = .next t :=
  ⟨by decide, by decide, _, rfl⟩

theorem witness_StepKeepsMemoryCanonical :
    MemoryCanonical (placed 0xF055) ∧ (placed 0xF055).mem = [(0x200, 0xF0), (0x201, 0x55)] ∧
      ∃ t, step (placed 0xF055) = .next t := ⟨by decide, by decide, _, rfl⟩
theorem witness_StepKeepsRecordsLegal :
    RecordsLegal (placed 0x00EE) ∧ ∃ t, step (placed 0x00EE) = .next t :=
  ⟨by unfold RecordsLegal; decide, _, rfl⟩
theorem witness_StepKeepsRecordsLegal_halted : RecordsLegal stopped ∧ step stopped = .next stopped :=
  ⟨by unfold RecordsLegal; decide, rfl⟩
theorem witness_StepKeepsPcBounded :
    PcBounded ((withStack 1 0x1000).withFetchWord 16 0x00EE) ∧
      ∃ t, step ((withStack 1 0x1000).withFetchWord 16 0x00EE) = .next t :=
  ⟨by unfold PcBounded; decide, _, rfl⟩
theorem witness_HostTransactionsKeepTheInvariants :
    Transaction.stateRead ≠ .cycle ∧ MemoryCanonical stopped ∧ RecordsLegal stopped ∧ PcBounded stopped ∧
      transact .stateRead stopped = .next stopped :=
  ⟨by decide, by decide, by unfold RecordsLegal; decide, by unfold PcBounded; decide, rfl⟩
theorem witness_CanonicalMemoriesAgreeByReading :
    Memory.wf defaultConfig [(0x051, 0x00), (0x300, 0x01)] ∧
      ∀ a : Addr, Memory.read defaultConfig [(0x051, 0x00), (0x300, 0x01)] a.toNat =
        Memory.read defaultConfig [(0x051, 0x00), (0x300, 0x01)] a.toNat := ⟨by decide, fun _ => rfl⟩

theorem witness_RetPopsTheReturnAddress :
    State.reset.sp.val = 0 ∧ (withStack 1 0x206).sp.val = (0 : Fin 16).val + 1 ∧
      (withStack 16 0x206).sp.val = (15 : Fin 16).val + 1 := by decide
theorem witness_CallPushesTheReturnAddress :
    (withStack 16 0x206).sp.val = 16 ∧ State.reset.sp.val = (0 : Fin 16).val ∧
      (withStack 15 0x206).sp.val = (15 : Fin 16).val := by decide
theorem witness_CallThenReturn :
    State.reset.sp.val = (0 : Fin 16).val ∧ (withStack 15 0x206).sp.val = (15 : Fin 16).val := by decide

theorem witness_RegisterSkips :
    (with1 3 0x10).getV 3 = 0x10 ∧ (with1 3 0x10).getV 3 ≠ 0x11 ∧ (with2 1 7 2 7).getV 1 = (with2 1 7 2 7).getV 2 ∧
      (with2 1 7 2 8).getV 1 ≠ (with2 1 7 2 8).getV 2 := by decide
theorem witness_KeySkips_index :
    0xF < ((with1 5 0x10).getV 5).toNat ∧ ((with1 5 0x0F).getV 5).toNat = (0xF#4).toNat ∧
      ((with1 5 0x00).getV 5).toNat = (0x0#4).toNat := by decide
theorem witness_KeySkips_key :
    ((with1 5 0x0F).keysWrite 0x8000).key 0xF = true ∧ ((with1 5 0x0F).keysWrite 0x7FFF).key 0xF = false := by decide

theorem witness_AddSetsTheCarry :
    (1#4 : Reg) ≠ vf ∧ 255 < ((with2 1 0xFF 2 0x01).getV 1).toNat + ((with2 1 0xFF 2 0x01).getV 2).toNat ∧
      ¬255 < ((with2 1 0xFE 2 0x01).getV 1).toNat + ((with2 1 0xFE 2 0x01).getV 2).toNat := by decide
theorem witness_SubtractionsSetTheFlagStrictly :
    (1#4 : Reg) ≠ vf ∧ ((with2 1 8 2 7).getV 2).toNat < ((with2 1 8 2 7).getV 1).toNat ∧
      ¬((with2 1 7 2 7).getV 2).toNat < ((with2 1 7 2 7).getV 1).toNat := by decide
theorem witness_ShiftsSetTheBitShiftedOut : (1#4 : Reg) ≠ vf ∧ (0xE#4 : Reg) ≠ vf := by decide

theorem witness_DataAddressesAreDistinct :
    15 < 16 ∧ dataAddr 0xFFFF 15 = dataAddr 0xFFFF 15 ∧ dataAddr 0xFFFF 15 = 0x00E#12 ∧
      dataAddr 0xFFFF 0 ≠ dataAddr 0xFFFF 15 := by decide
theorem witness_FontGlyphsStandAtTheirAddress : (0x0F#8).toNat ≤ 0xF ∧ (0x00#8).toNat ≤ 0xF ∧ 4 < 5 := by decide
theorem witness_StoreRegistersToMemory : (0xF#4).toNat ≤ (0xF#4).toNat ∧ (0#4).toNat ≤ (0#4).toNat := by decide
theorem witness_LoadRegistersFromMemory : (0xF#4).toNat ≤ (0xF#4).toNat ∧ (0#4).toNat ≤ (0#4).toNat := by decide
theorem witness_StoredWordIsFetched :
    (∃ t, exec (.storeRegs 1) (State.reset.setI 0xFFE) = .next t) ∧ (1#4).toNat = (0#4).toNat + 1 ∧
      (1#4).toNat ≤ (1#4).toNat ∧ (dataAddr (State.reset.setI 0xFFE).i (0#4).toNat).toNat % 2 = 0 :=
  ⟨⟨_, rfl⟩, by decide, by decide, by decide⟩

theorem witness_ClsClearsEveryPixel : ∀ r c, Part.reg vf ≠ .pixel r c := nofun

/-- A sprite of one set bit at the last row and column, drawn with both coordinates to be reduced (R200). -/
def corner : State := ((withByte 0x300 0x300 0x01).setV 0 0x78).setV 1 0xFF

theorem witness_DrawTogglesTheSprite_covers :
    SpriteCovers corner (corner.getV 0) (corner.getV 1) (1#4).toNat 31 63 :=
  ⟨0, 7, by decide, by decide, by decide, by decide, by decide⟩
theorem witness_DrawTogglesTheSprite_lit :
    ∃ r c, SpriteCovers (corner.setPixel 31 63 true) (corner.getV 0) (corner.getV 1) (1#4).toNat r c ∧
      (corner.setPixel 31 63 true).pixel r c = true :=
  ⟨31, 63, ⟨0, 7, by decide, by decide, by decide, by decide, by decide⟩, by decide⟩
theorem pixel_reset (r : Fin 32) (c : Fin 64) : State.reset.pixel r c = false := by
  simp [State.pixel, State.reset, State.resetWith, Vector.get_eq_getElem]
theorem witness_DrawTogglesTheSprite_clear :
    ∀ r c, SpriteCovers corner (corner.getV 0) (corner.getV 1) (1#4).toNat r c → corner.pixel r c = false :=
  fun r c _ => pixel_reset r c
theorem witness_DrawTogglesTheSprite_not_covered :
    ¬SpriteCovers State.reset (State.reset.getV 0) (State.reset.getV 1) (0#4).toNat 0 0 :=
  fun ⟨_, _, h, _⟩ => absurd h (Nat.not_lt_zero _)
theorem witness_SpriteBitsHitDistinctPixels :
    14 < 15 ∧ 7 < 8 ∧ pixelRow 0xFF 14 = pixelRow 0xFF 14 ∧ pixelColumn 0xFF 7 = pixelColumn 0xFF 7 := by decide
theorem witness_DrawTwiceRestoresTheScreen : (0#4 : Reg) ≠ vf ∧ (0xE#4 : Reg) ≠ vf := by decide

theorem witness_TimerTransfers : Running State.reset := by decide
theorem witness_KeyWait_pressed :
    (State.reset.keysWrite 0x8000).key 0xF = true ∧
      (∀ j : BitVec 4, j.toNat < (0xF#4).toNat → (State.reset.keysWrite 0x8000).key j = false) ∧
      (State.reset.keysWrite 0x0421).key 0 = true ∧
      ∀ j : BitVec 4, j.toNat < (0#4).toNat → (State.reset.keysWrite 0x0421).key j = false := by decide
theorem witness_KeyWait_none : ∀ k, State.reset.key k = false := by decide
theorem witness_TimersCountDownAfterTheInstruction :
    Running (placed 0xF015) ∧ (next (placed 0xF015)).halted = false ∧
      decode (fetchedWord (placed 0xF015)) = .inst (.ldDtVx 0) ∧
      decode (fetchedWord (placed 0xFF18)) = .inst (.ldStVx 0xF) ∧
      decode (fetchedWord (placed 0xF307)) = .inst (.ldVxDt 3) ∧
      Running (placed 0x00EE) ∧ (next (placed 0x00EE)).halted = true := by decide
theorem witness_TimersCountDownAfterTheInstruction_step :
    step (placed 0xF015) = .next (next (placed 0xF015)) ∧ step (placed 0x00EE) = .next (next (placed 0x00EE)) ∧
      step stopped = .next stopped := ⟨rfl, rfl, rfl⟩
theorem witness_TimersCountDownAfterTheInstruction_other :
    ∀ x, decode (fetchedWord (placed 0x6000)) ≠ .inst (.ldDtVx x) ∧
      decode (fetchedWord (placed 0x6000)) ≠ .inst (.ldStVx x) := by decide

theorem witness_PcAtTheEndOfACycle :
    (next stopped).halted = true ∧ (next (placed 0x0120)).halted = false ∧
      decode (fetchedWord (placed 0x0120)) = .unknown .group0 ∧ (next (placed 0xBFFF)).halted = false ∧
      decode (fetchedWord (placed 0xBFFF)) = .inst (.jpV0 0xFFF) := by decide
theorem witness_PcAtTheEndOfACycle_step :
    step stopped = .next (next stopped) ∧ step (placed 0x0120) = .next (next (placed 0x0120)) ∧
      step (placed 0xBFFF) = .next (next (placed 0xBFFF)) := ⟨rfl, rfl, rfl⟩

/-- F433 with V4 = 0xFF, I = 0x300. -/
def storing : State := ((with1 4 0xFF).setI 0x300).withFetchWord 16 0xF433

theorem witness_OnlyTheNamedInstructionsWrite_memory :
    step storing = .next (next storing) ∧ (next storing).readByte 0x300 ≠ storing.readByte 0x300 :=
  ⟨rfl, by decide⟩
theorem witness_OnlyTheNamedInstructionsWrite_screen :
    (next ((State.reset.setPixel 3 7 true).withFetchWord 16 0x00E0)).pixel 3 7 ≠
      ((State.reset.setPixel 3 7 true).withFetchWord 16 0x00E0).pixel 3 7 := by decide
theorem witness_OnlyTheNamedInstructionsWrite_registers :
    (next (placed 0xAFFF)).i ≠ (placed 0xAFFF).i ∧ (next (placed 0x2210)).sp ≠ (placed 0x2210).sp ∧
      (next (placed 0x2210)).stackAt 0 ≠ (placed 0x2210).stackAt 0 ∧
      (next (placed 0xC300)).draws ≠ (placed 0xC300).draws := by decide
theorem witness_RegistersChangeOnlyByTheTable :
    step (placed 0x6AFF) = .next (next (placed 0x6AFF)) ∧ (next (placed 0x6AFF)).getV 0xA ≠ (placed 0x6AFF).getV 0xA :=
  ⟨rfl, by decide⟩

theorem witness_LatchAndRecordsAreInvisible :
    SameForPrograms (placed 0x7001) { placed 0x7001 with opcode := 0xABCD, unkOp := 0x0120, status := 0x10 } ∧
      (∃ t, step (placed 0x7001) = .next t) ∧
      ∃ t, step { placed 0x7001 with opcode := 0xABCD, unkOp := 0x0120, status := 0x10 } = .next t :=
  ⟨⟨by decide, fun p hp => by cases p <;> first | rfl | simp at hp⟩, ⟨_, rfl⟩, ⟨_, rfl⟩⟩
theorem witness_StaleStackEntriesAreInvisible :
    SameButStaleStack (placed 0x2210) { placed 0x2210 with stack := Vector.replicate 16 0xFFFF } ∧
      (∃ t, step (placed 0x2210) = .next t) ∧
      ∃ t, step { placed 0x2210 with stack := Vector.replicate 16 0xFFFF } = .next t :=
  ⟨fun p hp => by
    cases p with
    | stackEntry k => exact absurd (hp k rfl) (Nat.not_lt_zero _)
    | _ => rfl, ⟨_, rfl⟩, ⟨_, rfl⟩⟩
theorem witness_RecordsAreStickyUntilReset_seen :
    Transaction.cycle ≠ .reset ∧ statusUnkSeen (next (placed 0x0120)).status = true ∧
      transact .cycle (next (placed 0x0120)) = .next (next (next (placed 0x0120))) := ⟨by decide, by decide, rfl⟩
theorem witness_RecordsAreStickyUntilReset_changes :
    statusUnkSeen (next (placed 0x0120)).status ≠ statusUnkSeen (placed 0x0120).status ∧
      (next (placed 0x0120)).unkOp ≠ (placed 0x0120).unkOp ∧ (next (placed 0x0120)).unkPc ≠ (placed 0x0120).unkPc ∧
      transact .cycle (placed 0x0120) = .next (next (placed 0x0120)) := ⟨by decide, by decide, by decide, rfl⟩
theorem witness_RecordsAreStickyUntilReset_load :
    statusLoadErr (State.reset.load (List.replicate 3585 0)).status = true ∧
      statusLoadErr (State.reset.load (List.replicate 3585 0)).status ≠ statusLoadErr State.reset.status := by
  rw [test_load_too_large]; decide
theorem witness_RecordsAreStickyUntilReset_halted :
    stopped.halted = true ∧ transact .sound stopped = .next stopped := ⟨by decide, rfl⟩
theorem witness_RecordsAreStickyUntilReset_halts :
    (next (placed 0x00EE)).halted ≠ (placed 0x00EE).halted ∧
      statusCause (next (placed 0x00EE)).status ≠ statusCause (placed 0x00EE).status ∧
      (next (placed 0x00EE)).faultPc ≠ (placed 0x00EE).faultPc ∧
      (next (placed 0x00EE)).faultOp ≠ (placed 0x00EE).faultOp ∧
      transact .cycle (placed 0x00EE) = .next (next (placed 0x00EE)) :=
  ⟨by decide, by decide, by decide, by decide, rfl⟩
theorem witness_IdleEndStaysIdle : EndedIdleAt (placed 0x1200) 0x200 := by unfold EndedIdleAt; decide

theorem witness_ResetFromAnyState :
    stopped.halted = true ∧ transact .reset stopped = .next stopped.afterReset ∧ stopped.afterReset.halted = false :=
  ⟨by decide, rfl, by decide⟩

theorem witness_LoadCopiesOrRefuses_fits :
    (List.replicate 3584 (0x7F#8)).length ≤ 3584 ∧ (List.replicate 3584 (0x7F#8))[3583]? = some 0x7F#8 :=
  ⟨by rw [List.length_replicate], by rw [List.getElem?_replicate_of_lt (by decide)]⟩
theorem witness_LoadCopiesOrRefuses_too_long : 3584 < (List.replicate 3585 (0x7F#8)).length := by
  rw [List.length_replicate]; decide
theorem witness_KeysWriteSetsTheTable : ∀ k, Part.pc ≠ .key k := nofun

end Sys2Proof.Tests
end

section
/-! PROOFS. The state after RESET and the host's transactions (spec 10_state, sections 14 and 16). -/

namespace Sys2Proof.Machine

/-! ## RESET (R46, R49) -/

theorem Memory.unlisted_outside_font (c : Config) {a : Nat} (h : a < c.fontBase.val ∨ c.fontBase.val + 80 ≤ a) :
    Memory.unlisted c a = 0 :=
  dif_neg (by omega)

theorem Memory.unlisted_font (c : Config) (j : Fin 80) :
    Memory.unlisted c (c.fontBase.val + j.val) = c.fontRom.get j := by
  have hj : c.fontBase.val ≤ c.fontBase.val + j.val ∧ c.fontBase.val + j.val - c.fontBase.val < 80 := by omega
  simp [Memory.unlisted, hj, Vector.get_eq_getElem]

/-- Every address of the font is below 4096, so that 12 bits hold it: FONT_BASE is at most 0x1B0 (R8). -/
theorem Config.toNat_fontAddr (c : Config) (j : Fin 80) :
    (BitVec.ofNat 12 (c.fontBase.val + j.val)).toNat = c.fontBase.val + j.val := by
  rw [BitVec.toNat_ofNat, Nat.mod_eq_of_lt (by omega)]

@[simp] theorem State.getV_resetWith (c : Config) (x : Reg) : (State.resetWith c).getV x = 0 := by
  simp [State.getV, State.resetWith]

@[simp] theorem State.stackAt_resetWith (c : Config) (k : Fin 16) : (State.resetWith c).stackAt k = 0 := by
  simp [State.stackAt, State.resetWith, Vector.get_eq_getElem]

@[simp] theorem State.pixel_resetWith (c : Config) (r : Fin 32) (k : Fin 64) :
    (State.resetWith c).pixel r k = false := by
  simp [State.pixel, State.resetWith, Vector.get_eq_getElem]

@[simp] theorem State.key_resetWith (c : Config) (k : BitVec 4) : (State.resetWith c).key k = false := by
  simp [State.key, State.resetWith]

theorem State.readByte_resetWith (c : Config) (a : Addr) :
    (State.resetWith c).readByte a = Memory.unlisted c a.toNat := rfl

theorem State.readByte_resetWith_font (c : Config) (j : Fin 80) :
    (State.resetWith c).readByte (BitVec.ofNat 12 (c.fontBase.val + j.val)) = c.fontRom.get j := by
  rw [State.readByte_resetWith, Config.toNat_fontAddr, Memory.unlisted_font]

/-- The state `State.resetWith` gives is that of the table of R46. -/
theorem State.resetWith_resetValues (c : Config) : ResetValues c (State.resetWith c) :=
  ⟨State.getV_resetWith c, rfl, rfl, rfl, State.stackAt_resetWith c, rfl, rfl,
    fun _ h => Memory.unlisted_outside_font c h, State.readByte_resetWith_font c,
    State.pixel_resetWith c, State.key_resetWith c, rfl, rfl, rfl, rfl, rfl, rfl, rfl⟩

/-- R46 says nothing of the count of draws, which is the model's own field. -/
theorem ResetValues.withDraws {c : Config} {s : State} (h : ResetValues c s) (n : Nat) :
    ResetValues c { s with draws := n } := h

/-- RESET leaves the state of R46 for the engine's own configuration, whatever the state was (R49). -/
theorem State.afterReset_resetValues (s : State) : ResetValues s.config s.afterReset :=
  (State.resetWith_resetValues s.config).withDraws s.draws

/-! ## LOAD (R52, R229) -/

theorem imageFits_of_le {image : List Byte} (h : image.length ≤ 3584) : imageFits image = true :=
  decide_eq_true h

theorem imageFits_of_gt {image : List Byte} (h : 3584 < image.length) : imageFits image = false :=
  decide_eq_false (Nat.not_le.mpr h)

theorem State.load_of_fits (s : State) {image : List Byte} (h : image.length ≤ 3584) :
    s.load image = s.storeImage 0x200 image := by
  simp [State.load, imageFits_of_le h]

theorem State.load_of_too_long (s : State) {image : List Byte} (h : 3584 < image.length) :
    s.load image = { s with status := statusWithLoadErr s.status } := by
  simp [State.load, imageFits_of_gt h]

theorem response_load_of_fits (s : State) {image : List Byte} (h : image.length ≤ 3584) :
    response (.load image) s = .loadOk := by
  simp [response, imageFits_of_le h]

theorem response_load_of_too_long (s : State) {image : List Byte} (h : 3584 < image.length) :
    response (.load image) s = .loadTooLarge := by
  simp [response, imageFits_of_gt h]

/-- The frame of a LOAD that fits: only the bytes from 0x200 on that the image covers. -/
theorem State.load_frame_of_fits (s : State) {image : List Byte} (h : image.length ≤ 3584) :
    UnchangedBut ((List.range image.length).map fun j => .byte (BitVec.ofNat 12 (0x200 + j))) s (s.load image) := by
  rw [s.load_of_fits h]
  exact s.storeImage_frame 0x200 image

/-- The frame of a LOAD that is refused: only STATUS. -/
theorem State.load_frame_of_too_long (s : State) {image : List Byte} (h : 3584 < image.length) :
    UnchangedBut [.status] s (s.load image) := by
  rw [s.load_of_too_long h]
  intro p hp
  cases p with
  | status => simp at hp
  | _ => rfl

/-- LOAD neither sets nor clears HALT. -/
@[simp] theorem State.halted_load (s : State) (image : List Byte) : (s.load image).halted = s.halted := by
  rcases Nat.lt_or_ge 3584 image.length with h | h
  · rw [s.load_of_too_long h]
    exact statusHalt_withLoadErr s.status
  · exact halted_of_same_status (s.load_frame_of_fits h .status (by simp))

/-- The copy of an image leaves a byte below its first address alone, where it does not run past the end of memory. -/
theorem State.readByte_storeImage_below (s : State) {a c : Nat} {image : List Byte} (hend : a + image.length ≤ 4096)
    (hc : c < a) : (s.storeImage a image).readByte (BitVec.ofNat 12 c) = s.readByte (BitVec.ofNat 12 c) := by
  refine s.storeImage_frame a image (.byte (BitVec.ofNat 12 c)) fun hmem => ?_
  obtain ⟨j, hj, heq⟩ := List.mem_map.mp hmem
  have hlt := List.mem_range.mp hj
  have haddr := congrArg BitVec.toNat (Part.byte.inj heq)
  simp only [BitVec.toNat_ofNat] at haddr
  omega

/-- The copy of an image that ends inside memory puts its byte j at its first address plus j: the later bytes go to
higher addresses and do not overwrite it. -/
theorem State.readByte_storeImage (s : State) {a j : Nat} {image : List Byte} {b : Byte}
    (hend : a + image.length ≤ 4096) (hb : image[j]? = some b) :
    (s.storeImage a image).readByte (BitVec.ofNat 12 (a + j)) = b := by
  induction image generalizing s a j with
  | nil => simp at hb
  | cons b₀ rest ih =>
    have hrest : a + 1 + rest.length ≤ 4096 := by rw [List.length_cons] at hend; omega
    cases j with
    | zero =>
      obtain rfl : b₀ = b := by simpa using hb
      exact (State.readByte_storeImage_below _ hrest (Nat.lt_succ_self a)).trans (State.readByte_writeByte_self s _ b₀)
    | succ j =>
      have := ih (s.writeByte (BitVec.ofNat 12 a) b₀) hrest (by simpa using hb)
      rwa [Nat.add_right_comm] at this

/-- LOAD puts byte j of an image that fits at 0x200 + j: the longest one ends at 0xFFF. -/
theorem State.readByte_load (s : State) {image : List Byte} (h : image.length ≤ 3584) {j : Nat} {b : Byte}
    (hb : image[j]? = some b) : (s.load image).readByte (BitVec.ofNat 12 (0x200 + j)) = b := by
  rw [s.load_of_fits h]
  exact s.readByte_storeImage (by omega) hb

/-! ## KEYS_WRITE (R51) -/

theorem State.keysWrite_frame (s : State) (k16 : BitVec 16) {p : Part} (hp : ∀ k, p ≠ .key k) :
    p.Same s (s.keysWrite k16) := by
  cases p with
  | key k => exact (hp k rfl).elim
  | _ => simp [Part.Same]

/-! ## The transactions of a halted engine (R49, R119) -/

/-- A halted engine's CYCLE leaves the state as it is (R119). -/
theorem step_of_halted {s : State} (h : s.halted = true) : step s = .next s := by
  simp [step, beginCycle_halted h]

/-- No transaction but RESET clears HALT. -/
theorem transact_keeps_halted {x : Transaction} {s t : State} (hx : x ≠ .reset) (hs : s.halted = true)
    (ht : transact x s = .next t) : t.halted = true := by
  cases x with
  | reset => exact absurd rfl hx
  | cycle => cases (step_of_halted hs).symm.trans ht; exact hs
  | keysWrite k16 => cases ht; exact (s.halted_keysWrite k16).trans hs
  | load image => cases ht; exact (s.halted_load image).trans hs
  | videoRead => cases ht; exact hs
  | sound => cases ht; exact hs
  | stateRead => cases ht; exact hs

/-! ## SOUND and STATE_READ (R40, R55, R56) -/

theorem State.soundOn_iff (s : State) : s.soundOn = true ↔ 0 < s.st.toNat := by
  simp [State.soundOn, Nat.pos_iff_ne_zero, BitVec.toNat_eq]

@[simp] theorem statusReserved_read (w : Byte) : statusReserved (statusRead w) = 0 := by
  revert w; decide

@[simp] theorem statusHalt_read (w : Byte) : statusHalt (statusRead w) = statusHalt w := by
  revert w; decide

@[simp] theorem statusCause_read (w : Byte) : statusCause (statusRead w) = statusCause w := by
  revert w; decide

@[simp] theorem statusUnkSeen_read (w : Byte) : statusUnkSeen (statusRead w) = statusUnkSeen w := by
  revert w; decide

@[simp] theorem statusLoadErr_read (w : Byte) : statusLoadErr (statusRead w) = statusLoadErr w := by
  revert w; decide

/-! ## The obligations -/

/-- Settles O1: `State.resetWith_resetValues`, and `State.reset` is that state for the default configuration. -/
theorem resetGivesEveryValue : Obligations.ResetGivesEveryValue :=
  ⟨State.resetWith_resetValues, rfl⟩

/-- Settles O52: RESET by `State.afterReset_resetValues`; the second clause is the contrapositive of
`transact_keeps_halted`. -/
theorem resetFromAnyState : Obligations.ResetFromAnyState := by
  intro s
  refine ⟨⟨_, rfl, s.afterReset_resetValues⟩, fun x t hs ht hrun => ?_⟩
  by_contra hx
  simp [transact_keeps_halted hx hs ht] at hrun

/-- Settles O53, by the two lengths of `State.load`: the bytes by `State.readByte_load`, the rest by the frames. -/
theorem loadCopiesOrRefuses : Obligations.LoadCopiesOrRefuses := by
  intro s image
  constructor
  · intro h
    exact ⟨response_load_of_fits s h, _, rfl, fun _ _ hb => s.readByte_load h hb, s.load_frame_of_fits h⟩
  · intro h
    have hstatus : (s.load image).status = statusWithLoadErr s.status := by rw [s.load_of_too_long h]
    refine ⟨response_load_of_too_long s h, _, rfl, ?_, s.halted_load image, ?_, ?_, ?_, s.load_frame_of_too_long h⟩ <;>
      simp [hstatus]

/-- Settles O54: the keys by `State.key_keysWrite`, every other part by `State.keysWrite_frame`. -/
theorem keysWriteSetsTheTable : Obligations.KeysWriteSetsTheTable :=
  fun s k16 => ⟨_, rfl, s.key_keysWrite k16, fun _ hp => s.keysWrite_frame k16 hp⟩

/-- Settles O55: the three transactions return the state itself; SOUND by `State.soundOn_iff`, the fields of STATUS by
the lemmas about `statusRead`. -/
theorem readingTransactionsChangeNothing : Obligations.ReadingTransactionsChangeNothing := by
  intro s
  refine ⟨⟨rfl, _, rfl, fun _ _ => rfl⟩, ⟨rfl, _, rfl, s.soundOn_iff⟩, rfl, _, rfl, rfl, rfl, rfl, rfl, rfl, rfl, ?_⟩
  exact ⟨statusReserved_read _, statusHalt_read _, statusCause_read _, statusUnkSeen_read _, statusLoadErr_read _⟩

end Sys2Proof.Machine
end

section
/-! PROOFS. The decoder and the encoder agree with the opcode table (spec 30_encoding R83, R86, R95). -/

namespace Sys2Proof

/-! ## Decoding and the encoder -/

/-- The encoder gives back the word that an instruction was decoded from. -/
theorem encode_of_decode {w : Word} {i : Instr} (h : decode w = .inst i) : encode i = w := by
  have hnnn := word_eq_nnn w
  have hxkk := word_eq_xkk w
  have hxyn := word_eq_xyn w
  rcases group_cases (fieldG w) with
    (hg | hg | hg | hg) | (hg | hg | hg | hg) | (hg | hg | hg | hg) | (hg | hg | hg | hg) <;>
    rw [hg] at hnnn hxkk hxyn
  · rw [decode_group0 hg] at h; exact decodeGroup0_inst h
  · cases (decode_group1 hg).symm.trans h; exact hnnn.symm
  · cases (decode_group2 hg).symm.trans h; exact hnnn.symm
  · cases (decode_group3 hg).symm.trans h; exact hxkk.symm
  · cases (decode_group4 hg).symm.trans h; exact hxkk.symm
  · rw [decode_group5 hg] at h
    split at h <;> cases h
    next hn => rw [hn] at hxyn; exact hxyn.symm
  · cases (decode_group6 hg).symm.trans h; exact hxkk.symm
  · cases (decode_group7 hg).symm.trans h; exact hxkk.symm
  · rw [decode_group8 hg] at h; exact (decodeGroup8_inst h).trans hxyn.symm
  · rw [decode_group9 hg] at h
    split at h <;> cases h
    next hn => rw [hn] at hxyn; exact hxyn.symm
  · cases (decode_groupA hg).symm.trans h; exact hnnn.symm
  · cases (decode_groupB hg).symm.trans h; exact hnnn.symm
  · cases (decode_groupC hg).symm.trans h; exact hxkk.symm
  · cases (decode_groupD hg).symm.trans h; exact hxyn.symm
  · rw [decode_groupE hg] at h; exact (decodeGroupE_inst h).trans hxkk.symm
  · rw [decode_groupF hg] at h; exact (decodeGroupF_inst h).trans hxkk.symm

/-! ## The rows of the table -/

/-- The word of every instruction carries the fixed digits of the instruction's row (R95). -/
theorem Instr.row_fixes_encode : ∀ i : Instr, i.row.fixes (encode i) = true
  | .cls => Laws.RowDigits.cls
  | .ret => Laws.RowDigits.ret
  | .jp nnn => Laws.RowDigits.jp nnn
  | .call nnn => Laws.RowDigits.call nnn
  | .seImm x kk => Laws.RowDigits.seImm x kk
  | .sneImm x kk => Laws.RowDigits.sneImm x kk
  | .seReg x y => Laws.RowDigits.seReg x y
  | .ldImm x kk => Laws.RowDigits.ldImm x kk
  | .addImm x kk => Laws.RowDigits.addImm x kk
  | .ldReg x y => Laws.RowDigits.ldReg x y
  | .orReg x y => Laws.RowDigits.orReg x y
  | .andReg x y => Laws.RowDigits.andReg x y
  | .xorReg x y => Laws.RowDigits.xorReg x y
  | .addReg x y => Laws.RowDigits.addReg x y
  | .subReg x y => Laws.RowDigits.subReg x y
  | .shr x y => Laws.RowDigits.shr x y
  | .subn x y => Laws.RowDigits.subn x y
  | .shl x y => Laws.RowDigits.shl x y
  | .sneReg x y => Laws.RowDigits.sneReg x y
  | .ldI nnn => Laws.RowDigits.ldI nnn
  | .jpV0 nnn => Laws.RowDigits.jpV0 nnn
  | .rnd x kk => Laws.RowDigits.rnd x kk
  | .drw x y n => Laws.RowDigits.drw x y n
  | .skp x => Laws.RowDigits.skp x
  | .sknp x => Laws.RowDigits.sknp x
  | .ldVxDt x => Laws.RowDigits.ldVxDt x
  | .ldVxK x => Laws.RowDigits.ldVxK x
  | .ldDtVx x => Laws.RowDigits.ldDtVx x
  | .ldStVx x => Laws.RowDigits.ldStVx x
  | .addIVx x => Laws.RowDigits.addIVx x
  | .ldFVx x => Laws.RowDigits.ldFVx x
  | .ldBVx x => Laws.RowDigits.ldBVx x
  | .storeRegs x => Laws.RowDigits.storeRegs x
  | .loadRegs x => Laws.RowDigits.loadRegs x

/-- Every instruction's row stands in the table: the row does not depend on the operands. -/
theorem Instr.row_mem_opcodeRows (i : Instr) : i.row ∈ opcodeRows := by
  cases i <;> simp [opcodeRows, rowSamples, Instr.row]

/-! ## The digits that a row fixes -/

namespace OpcodeRow

variable {r : OpcodeRow} {w : Word}

/-- A field whose mask bits are all set is the same in the word as in the row. -/
theorem extractLsb'_eq_of_fixes {lo len : Nat} (hm : r.mask.extractLsb' lo len = BitVec.allOnes len)
    (h : r.fixes w = true) : w.extractLsb' lo len = r.value.extractLsb' lo len := by
  have hw : w &&& r.mask = r.value := of_decide_eq_true h
  rw [← hw, BitVec.extractLsb'_and, hm, BitVec.and_allOnes]

theorem fieldG_eq_of_fixes (hm : fieldG r.mask = 0xF#4) (h : r.fixes w = true) : fieldG w = fieldG r.value :=
  extractLsb'_eq_of_fixes hm h

theorem fieldN_eq_of_fixes (hm : fieldN r.mask = 0xF#4) (h : r.fixes w = true) : fieldN w = fieldN r.value :=
  extractLsb'_eq_of_fixes hm h

theorem fieldKK_eq_of_fixes (hm : fieldKK r.mask = 0xFF#8) (h : r.fixes w = true) : fieldKK w = fieldKK r.value :=
  extractLsb'_eq_of_fixes hm h

/-- A row that fixes all four digits matches one word only. -/
theorem eq_value_of_fixes (hm : r.mask = 0xFFFF#16) (h : r.fixes w = true) : w = r.value := by
  have hw : w &&& r.mask = r.value := of_decide_eq_true h
  rwa [hm, show (0xFFFF#16) = BitVec.allOnes 16 from rfl, BitVec.and_allOnes] at hw

/-- A row of group 8 fixes the group and the low digit, which select the instruction (R88). -/
theorem decode_of_fixes_group8 (hG : fieldG r.mask = 0xF#4) (hN : fieldN r.mask = 0xF#4)
    (hg : fieldG r.value = 0x8#4) (h : r.fixes w = true) :
    decode w = decodeGroup8 (fieldX w) (fieldY w) (fieldN r.value) := by
  rw [decode_group8 ((fieldG_eq_of_fixes hG h).trans hg), fieldN_eq_of_fixes hN h]

/-- A row of group E fixes the group and the low byte, which select the instruction (R89). -/
theorem decode_of_fixes_groupE (hG : fieldG r.mask = 0xF#4) (hKK : fieldKK r.mask = 0xFF#8)
    (hg : fieldG r.value = 0xE#4) (h : r.fixes w = true) :
    decode w = decodeGroupE (fieldX w) (fieldKK r.value) := by
  rw [decode_groupE ((fieldG_eq_of_fixes hG h).trans hg), fieldKK_eq_of_fixes hKK h]

/-- A row of group F fixes the group and the low byte, which select the instruction (R89). -/
theorem decode_of_fixes_groupF (hG : fieldG r.mask = 0xF#4) (hKK : fieldKK r.mask = 0xFF#8)
    (hg : fieldG r.value = 0xF#4) (h : r.fixes w = true) :
    decode w = decodeGroupF (fieldX w) (fieldKK r.value) := by
  rw [decode_groupF ((fieldG_eq_of_fixes hG h).trans hg), fieldKK_eq_of_fixes hKK h]

end OpcodeRow

open OpcodeRow in
/-- A word with the fixed digits of an instruction's row decodes to an instruction of that row. -/
theorem Instr.decode_of_row_fixes (i : Instr) {w : Word} (h : i.row.fixes w = true) :
    ∃ j, decode w = .inst j ∧ j.row = i.row := by
  cases i <;> dsimp only [Instr.row] at h
  case cls => exact ⟨.cls, congrArg decode (eq_value_of_fixes rfl h), rfl⟩
  case ret => exact ⟨.ret, congrArg decode (eq_value_of_fixes rfl h), rfl⟩
  case jp => exact ⟨_, decode_group1 (fieldG_eq_of_fixes rfl h), rfl⟩
  case call => exact ⟨_, decode_group2 (fieldG_eq_of_fixes rfl h), rfl⟩
  case seImm => exact ⟨_, decode_group3 (fieldG_eq_of_fixes rfl h), rfl⟩
  case sneImm => exact ⟨_, decode_group4 (fieldG_eq_of_fixes rfl h), rfl⟩
  case seReg =>
    exact ⟨_, (decode_group5 (fieldG_eq_of_fixes rfl h)).trans (if_pos (fieldN_eq_of_fixes rfl h)), rfl⟩
  case ldImm => exact ⟨_, decode_group6 (fieldG_eq_of_fixes rfl h), rfl⟩
  case addImm => exact ⟨_, decode_group7 (fieldG_eq_of_fixes rfl h), rfl⟩
  case ldReg | orReg | andReg | xorReg | addReg | subReg | shr | subn | shl =>
    exact ⟨_, decode_of_fixes_group8 rfl rfl rfl h, rfl⟩
  case sneReg =>
    exact ⟨_, (decode_group9 (fieldG_eq_of_fixes rfl h)).trans (if_pos (fieldN_eq_of_fixes rfl h)), rfl⟩
  case ldI => exact ⟨_, decode_groupA (fieldG_eq_of_fixes rfl h), rfl⟩
  case jpV0 => exact ⟨_, decode_groupB (fieldG_eq_of_fixes rfl h), rfl⟩
  case rnd => exact ⟨_, decode_groupC (fieldG_eq_of_fixes rfl h), rfl⟩
  case drw => exact ⟨_, decode_groupD (fieldG_eq_of_fixes rfl h), rfl⟩
  case skp | sknp => exact ⟨_, decode_of_fixes_groupE rfl rfl rfl h, rfl⟩
  case ldVxDt | ldVxK | ldDtVx | ldStVx | addIVx | ldFVx | ldBVx | storeRegs | loadRegs =>
    exact ⟨_, decode_of_fixes_groupF rfl rfl rfl h, rfl⟩

/-! ## The obligation -/

/-- A row of the table matches a word exactly when the word decodes to an instruction of the row. -/
theorem fixes_iff_decode {r : OpcodeRow} (hr : r ∈ opcodeRows) (w : Word) :
    r.fixes w = true ↔ ∃ i, decode w = .inst i ∧ i.row = r := by
  constructor
  · intro h
    obtain ⟨i, -, rfl⟩ := List.mem_map.mp hr
    exact i.decode_of_row_fixes h
  · rintro ⟨i, hi, rfl⟩
    rw [← encode_of_decode hi]
    exact i.row_fixes_encode

/-- A word is unknown exactly when no row of the table matches it. -/
theorem decode_unknown_iff (w : Word) :
    (∃ why, decode w = .unknown why) ↔ ∀ r ∈ opcodeRows, r.fixes w = false := by
  cases hw : decode w with
  | inst i =>
    have hfixes : i.row.fixes w = true := (fixes_iff_decode i.row_mem_opcodeRows w).mpr ⟨i, hw, rfl⟩
    simp only [reduceCtorEq, exists_false, false_iff, not_forall]
    exact ⟨i.row, i.row_mem_opcodeRows, by simp [hfixes]⟩
  | unknown why =>
    refine iff_of_true ⟨why, rfl⟩ fun r hr => ?_
    simp [← Bool.not_eq_true, fixes_iff_decode hr, hw]

/-- Rows that match one word are equal, since the word decodes to one instruction. -/
theorem row_unique_of_fixes {r r' : OpcodeRow} (hr : r ∈ opcodeRows) (hr' : r' ∈ opcodeRows) {w : Word}
    (h : r.fixes w = true) (h' : r'.fixes w = true) : r = r' := by
  obtain ⟨i, hi, rfl⟩ := (fixes_iff_decode hr w).mp h
  obtain ⟨j, hj, rfl⟩ := (fixes_iff_decode hr' w).mp h'
  cases hi.symm.trans hj
  rfl

/-- Settles O5: the rows by `fixes_iff_decode`, from which follow the unknown words and that no two rows overlap. -/
theorem decodeMatchesTheTable : Obligations.DecodeMatchesTheTable := fun w =>
  ⟨fun _ hr => fixes_iff_decode hr w, decode_unknown_iff w,
    fun _ hr _ hr' h h' => row_unique_of_fixes hr hr' h h'⟩

end Sys2Proof
end

section
/-! PROOFS. The engine cycle around the instruction: the halted check, the fetch checks, the unknown word and the
countdown of the timers (spec 40_cycle). -/

namespace Sys2Proof.Machine

/-! ## The state an instruction sees (R111) -/

@[simp] theorem State.fetched_dt (s : State) : s.fetched.dt = s.dt := rfl
@[simp] theorem State.fetched_st (s : State) : s.fetched.st = s.st := rfl
@[simp] theorem State.getV_fetched (s : State) (x : Reg) : s.fetched.getV x = s.getV x := rfl
@[simp] theorem State.fetched_status (s : State) : s.fetched.status = s.status := rfl

/-! ## The cycles that run no instruction (R113, R116) -/

theorem step_of_done {s t : State} (h : s.beginCycle = .done t) : step s = .next t := by
  simp [step, h]

theorem step_of_misaligned {s : State} (hrun : Running s) (hodd : s.pc.toNat % 2 = 1) :
    step s = .next (s.raiseHalt .fetchMisaligned s.pc 0) := by
  have hbit : s.pc.getLsbD 0 = true := by
    rw [← Bool.not_eq_false, getLsbD_zero_eq_false_iff]
    omega
  exact step_of_done (beginCycle_misaligned hrun hbit)

theorem step_of_range {s : State} (hrun : Running s) (heven : s.pc.toNat % 2 = 0) (hhigh : 0xFFE < s.pc.toNat) :
    step s = .next (s.raiseHalt .fetchRange s.pc 0) :=
  step_of_done (beginCycle_range hrun ((getLsbD_zero_eq_false_iff _).mpr heven) hhigh)

theorem step_of_unknown {s : State} {why : UnknownWord} (hf : Fetches s) (hd : decode (fetchedWord s) = .unknown why) :
    step s = .next (s.fetched.reportUnknown (fetchedWord s) s.pc).countdown := by
  obtain ⟨hrun, heven, hle⟩ := hf
  rw [← fetch16_eq_fetchedWord] at hd ⊢
  exact step_of_done (beginCycle_unknown hrun ((getLsbD_zero_eq_false_iff _).mpr heven) hle hd)

/-! ## Taking a fatal condition (R226) -/

/-- A listed part that is in fact the same can be struck off the list of a frame. -/
theorem UnchangedBut.of_cons {p : Part} {l : List Part} {s t : State} (h : UnchangedBut (p :: l) s t)
    (hp : p.Same s t) : UnchangedBut l s t := by
  intro q hq
  by_cases hqp : q = p
  · exact hqp ▸ hp
  · exact h q (by simp [hqp, hq])

/-- A condition raised at the state's own pc leaves every part but the records. -/
theorem State.raiseHalt_haltsWith (s : State) (c : Cause) (op : Word) :
    HaltsWith c.code op s (s.raiseHalt c s.pc op) := by
  have hkept : OtherStatusKept s (s.raiseHalt c s.pc op) := by simp [OtherStatusKept]
  have hframe : UnchangedBut [.status, .faultPc, .faultOp] s (s.raiseHalt c s.pc op) :=
    (s.raiseHalt_frame c s.pc op).of_cons rfl
  exact ⟨s.halted_raiseHalt c s.pc op, statusCause_withHalt _ _, rfl, rfl, hkept, hframe⟩

/-- An instruction that halts a running engine has raised its execute-stage condition. -/
theorem exec_eq_raiseInExec_of_halted {i : Instr} {s t : State} (h : exec i s = .next t) (hs : s.halted = false)
    (ht : t.halted = true) : ∃ c : Cause, executeCause s i = some c.code ∧ t = s.raiseInExec c := by
  refine (exec_raises h).resolve_right fun ⟨_, hsame⟩ => ?_
  have heq := halted_of_same_status (hsame .status (by simp))
  simp [hs, ht] at heq

/-! ## The timers (R118) -/

@[simp] theorem toNat_timerTick (b : Byte) : (timerTick b).toNat = b.toNat - 1 := by
  unfold timerTick
  split
  · next hzero => simp [hzero]
  · next hpos => bv_omega

/-- Only Fx15 writes DT during execution (R213). -/
theorem exec_dt {i : Instr} {s t : State} (h : exec i s = .next t) (hi : ∀ x, i ≠ .ldDtVx x) : t.dt = s.dt := by
  have hout : ¬Footprint s .dt i := by
    cases i with
    | ldDtVx x => exact absurd rfl (hi x)
    | _ => simp [Footprint, DrawPart]
  exact exec_footprint h .dt hout

/-- Only Fx18 writes ST during execution (R214). -/
theorem exec_st {i : Instr} {s t : State} (h : exec i s = .next t) (hi : ∀ x, i ≠ .ldStVx x) : t.st = s.st := by
  have hout : ¬Footprint s .st i := by
    cases i with
    | ldStVx x => exact absurd rfl (hi x)
    | _ => simp [Footprint, DrawPart]
  exact exec_footprint h .st hout

/-- A step that ends halted, whether it began so or raised a fatal condition, leaves both timers. -/
theorem step_timers_of_halted {s t : State} (h : step s = .next t) (ht : t.halted = true) :
    t.dt = s.dt ∧ t.st = s.st := by
  rcases step_cases h with ⟨-, rfl⟩ | ⟨-, -, rfl⟩ | ⟨-, -, -, rfl⟩ | ⟨⟨hrun, -⟩, -, rfl⟩ | ⟨i, u, ⟨hrun, -⟩, -, hx, rfl⟩
  · exact ⟨rfl, rfl⟩
  · exact ⟨rfl, rfl⟩
  · exact ⟨rfl, rfl⟩
  · simp [hrun] at ht
  · rw [State.halted_endCycle] at ht
    obtain ⟨c, -, rfl⟩ := exec_eq_raiseInExec_of_halted hx hrun ht
    rw [State.endCycle_of_halted ht]
    exact ⟨rfl, rfl⟩

/-- The completed cycles: a step that ends running has fetched, and counts the timers down after reporting an unknown
word or after an instruction that did not halt. -/
theorem step_cases_of_running {s t : State} (h : step s = .next t) (ht : t.halted = false) :
    (∃ why, Fetches s ∧ decode (fetchedWord s) = .unknown why ∧
      t = (s.fetched.reportUnknown (fetchedWord s) s.pc).countdown) ∨
    (∃ i u, Fetches s ∧ decode (fetchedWord s) = .inst i ∧ exec i s.fetched = .next u ∧ u.halted = false ∧
      t = u.countdown) := by
  rcases step_cases h with ⟨hh, rfl⟩ | ⟨-, -, rfl⟩ | ⟨-, -, -, rfl⟩ | ⟨hf, ⟨why, hd⟩, rfl⟩ | ⟨i, u, hf, hd, hx, rfl⟩
  · simp [hh] at ht
  · simp at ht
  · simp at ht
  · rw [fetch16_eq_fetchedWord] at hd ⊢
    exact .inl ⟨why, hf, hd, rfl⟩
  · rw [State.halted_endCycle] at ht
    rw [fetch16_eq_fetchedWord] at hd
    exact .inr ⟨i, u, hf, hd, hx, ht, State.endCycle_of_running ht⟩

/-! ## The obligations -/

/-- Settles O7: the two fetch conditions are each one `State.raiseHalt` at pc, with FAULT_OP 0. -/
theorem fetchChecksItsAddress : Obligations.FetchChecksItsAddress := fun s hrun =>
  ⟨fun hodd => ⟨_, step_of_misaligned hrun hodd, s.raiseHalt_haltsWith .fetchMisaligned 0⟩,
    fun heven hhigh => ⟨_, step_of_range hrun heven hhigh, s.raiseHalt_haltsWith .fetchRange 0⟩⟩

/-- Settles O8: CYCLE by `step_of_halted`, every transaction but RESET by `transact_keeps_halted`. -/
theorem haltedCycleChangesNothing : Obligations.HaltedCycleChangesNothing := fun _ hs =>
  ⟨step_of_halted hs, fun _ _ ht hx => transact_keeps_halted hx hs ht⟩

/-- Settles O9: the state of `step_of_unknown`, its frame composed of those of the fetch, the report and the
countdown. -/
theorem unknownWordIsAReportedNoOp : Obligations.UnknownWordIsAReportedNoOp := by
  intro s why hf hd
  have hrun : s.halted = false := hf.1
  have hframe : UnchangedBut [.pc, .opcode, .dt, .st, .status, .unkOp, .unkPc] s
      (s.fetched.reportUnknown (fetchedWord s) s.pc).countdown :=
    ((s.fetched_frame.mono (by simp)).trans ((State.reportUnknown_frame _ _ _).mono (by simp))).trans
      ((State.countdown_frame _).mono (by simp))
  refine ⟨_, step_of_unknown hf hd, ?_, rfl, rfl, rfl, fetch16_eq_fetchedWord s, ?_, ?_, ?_, ?_, ?_, ?_, hframe⟩ <;>
    simp [hrun]

/-- Settles O44: a step that ends halted by `step_timers_of_halted`; a completed cycle ends with the countdown, before
which only Fx15 has written DT and only Fx18 ST. -/
theorem timersCountDownAfterTheInstruction : Obligations.TimersCountDownAfterTheInstruction := by
  intro s t h
  refine ⟨step_timers_of_halted h, fun ht => ?_⟩
  rcases step_cases_of_running h ht with ⟨why, -, hd, rfl⟩ | ⟨i, u, -, hd, hx, -, rfl⟩
  · simp [hd]
  · simp only [hd, Decoded.inst.injEq, ne_eq, State.countdown_dt, State.countdown_st, toNat_timerTick,
      State.getV_countdown]
    refine ⟨fun hi => ?_, ?_, fun hi => ?_, ?_, ?_⟩
    · rw [exec_dt hx hi, State.fetched_dt]
    · rintro x rfl; cases hx; simp
    · rw [exec_st hx hi, State.fetched_st]
    · rintro x rfl; cases hx; simp
    · rintro x rfl; cases hx; simp

end Sys2Proof.Machine
end

section
/-! PROOFS. The control transfers RET, JP, CALL and JP V0 (spec 41_control_flow). -/

namespace Sys2Proof.Machine

/-! ## What the statements about single instructions share -/

/-- The fixed digits of an instruction's word are those of its row (R95). -/
theorem encodedBy_row (i : Instr) : EncodedBy i i.row.value i.row.mask :=
  show encode i &&& i.row.mask = i.row.value from of_decide_eq_true i.row_fixes_encode

/-- A condition raised by an executing instruction makes the entry of R226 and leaves every other part. -/
theorem State.raiseInExec_raisesInExec (s : State) (c : Cause) : RaisesInExec c.code s (s.raiseInExec c) := by
  have hkept : OtherStatusKept s (s.raiseInExec c) := by simp [OtherStatusKept]
  exact ⟨s.halted_raiseInExec c, statusCause_withHalt _ _, rfl, rfl, rfl, hkept, s.raiseHalt_frame c _ _⟩

/-! ## Targets (R84) -/

@[simp] theorem toNat_absoluteTarget (nnn : BitVec 12) : (absoluteTarget nnn).toNat = nnn.toNat :=
  BitVec.toNat_setWidth_of_le (by decide)

@[simp] theorem toNat_byteToWord (b : Byte) : (byteToWord b).toNat = b.toNat :=
  BitVec.toNat_setWidth_of_le (by decide)

/-- A 12-bit address plus a byte is below 65536, so the 16-bit sum is the sum of the numbers (R134). -/
theorem toNat_absoluteTarget_add_byteToWord (nnn : BitVec 12) (b : Byte) :
    (absoluteTarget nnn + byteToWord b).toNat = nnn.toNat + b.toNat := by
  have := nnn.isLt
  have := b.isLt
  rw [BitVec.toNat_add, toNat_absoluteTarget, toNat_byteToWord]
  omega

/-! ## The stack where it has an entry or room -/

theorem State.pop_of_sp_eq_succ {s : State} {k : Fin 16} (hk : s.sp.val = k.val + 1) :
    ∃ t, s.pop = some (s.stackAt k, t) ∧ t.sp.val = k.val ∧ UnchangedBut [.sp] s t := by
  cases hpop : s.pop with
  | none => simp [State.pop_eq_none.mp hpop] at hk
  | some wt =>
    obtain ⟨w, t⟩ := wt
    obtain ⟨j, hj, hsp, rfl, hframe⟩ := State.pop_some hpop
    obtain rfl : k = j := Fin.ext (by omega)
    exact ⟨t, rfl, hsp, hframe⟩

theorem State.push_of_sp_eq {s : State} {k : Fin 16} (hk : s.sp.val = k.val) (w : Word) :
    ∃ t, s.push w = some t ∧ t.sp.val = k.val + 1 ∧ t.stackAt k = w ∧ UnchangedBut [.sp, .stackEntry k] s t := by
  cases hpush : s.push w with
  | none =>
    have h16 : s.sp.val = 16 := congrArg Fin.val (State.push_eq_none.mp hpush)
    omega
  | some t =>
    obtain ⟨hlt, hsp, hentry, hframe⟩ := State.push_some hpush
    obtain rfl : k = ⟨s.sp.val, hlt⟩ := Fin.ext hk.symm
    exact ⟨t, rfl, hsp, hentry, hframe⟩

/-! ## RET and CALL, case by case -/

theorem exec_ret_of_sp_eq_zero {s : State} (h : s.sp.val = 0) :
    exec .ret s = .next (s.raiseInExec .stackUnderflow) := by
  simp [exec, execRet, State.pop_eq_none.mpr (Fin.ext h)]

theorem exec_ret_of_pop {s t : State} {w : Word} (h : s.pop = some (w, t)) : exec .ret s = .next (t.setPc w) := by
  simp [exec, execRet, h]

theorem exec_call_of_sp_eq_sixteen {s : State} (h : s.sp.val = 16) (nnn : BitVec 12) :
    exec (.call nnn) s = .next (s.raiseInExec .stackOverflow) := by
  simp [exec, execCall, State.push_eq_none.mpr (Fin.ext h)]

theorem exec_call_of_push {s t : State} (h : s.push s.pc = some t) (nnn : BitVec 12) :
    exec (.call nnn) s = .next (t.setPc (absoluteTarget nnn)) := by
  simp [exec, execCall, h]

/-- RET on a stack that is not empty: pc is the entry below sp, and only pc and sp change (R131). -/
theorem exec_ret_pops {s : State} {k : Fin 16} (hk : s.sp.val = k.val + 1) :
    ∃ t, exec .ret s = .next t ∧ t.pc = s.stackAt k ∧ t.sp.val = k.val ∧ UnchangedBut [.pc, .sp] s t := by
  obtain ⟨t, hpop, hsp, hframe⟩ := State.pop_of_sp_eq_succ hk
  exact ⟨_, exec_ret_of_pop hpop, rfl, hsp, (hframe.mono (by simp)).trans ((t.setPc_frame _).mono (by simp))⟩

/-- CALL on a stack that is not full: the pc it saw is the new entry, and only pc, sp and that entry change (R133). -/
theorem exec_call_pushes {s : State} {k : Fin 16} (hk : s.sp.val = k.val) (nnn : BitVec 12) :
    ∃ t, exec (.call nnn) s = .next t ∧ t.stackAt k = s.pc ∧ t.sp.val = k.val + 1 ∧ t.pc.toNat = nnn.toNat ∧
      UnchangedBut [.pc, .sp, .stackEntry k] s t := by
  obtain ⟨t, hpush, hsp, hentry, hframe⟩ := State.push_of_sp_eq hk s.pc
  exact ⟨_, exec_call_of_push hpush nnn, hentry, hsp, toNat_absoluteTarget nnn,
    (hframe.mono (by simp)).trans ((t.setPc_frame _).mono (by simp))⟩

/-! ## The obligations -/

/-- Settles O18: the empty stack by `exec_ret_of_sp_eq_zero`, any other by `exec_ret_pops`. -/
theorem retPopsTheReturnAddress : Obligations.RetPopsTheReturnAddress :=
  ⟨encodedBy_row .ret, fun s =>
    ⟨fun h => ⟨_, exec_ret_of_sp_eq_zero h, s.raiseInExec_raisesInExec .stackUnderflow⟩, fun _ => exec_ret_pops⟩⟩

/-- Settles O20: the full stack by `exec_call_of_sp_eq_sixteen`, any other by `exec_call_pushes`. -/
theorem callPushesTheReturnAddress : Obligations.CallPushesTheReturnAddress := fun s nnn =>
  ⟨encodedBy_row (.call nnn),
    fun h => ⟨_, exec_call_of_sp_eq_sixteen h nnn, s.raiseInExec_raisesInExec .stackOverflow⟩,
    fun _ hk => exec_call_pushes hk nnn⟩

/-- Settles O19: both jumps are one write of pc, and `toNat_absoluteTarget_add_byteToWord` says that the sum of JP V0
does not wrap. -/
theorem jumpsSetThePc : Obligations.JumpsSetThePc := fun s nnn =>
  ⟨⟨encodedBy_row (.jp nnn), _, rfl, toNat_absoluteTarget nnn, s.setPc_frame _⟩,
    encodedBy_row (.jpV0 nnn), _, rfl, toNat_absoluteTarget_add_byteToWord nnn (s.getV 0), s.setPc_frame _⟩

end Sys2Proof.Machine
end

section
/-! PROOFS. The skips: SE, SNE, SKP and SKNP (spec 42_skips). -/

namespace Sys2Proof.Machine

/-! ## A skip, whatever its condition (R114) -/

/-- An instruction that skips on the bit b, where P makes b true and Q makes it false: P is the condition of the skip and
Q its opposite. -/
theorem exec_skips {i : Instr} {s : State} {b : Bool} {P Q : Prop} (h : exec i s = .next (s.skipIf b))
    (hP : P → b = true) (hQ : Q → b = false) :
    ∃ t, exec i s = .next t ∧ UnchangedBut [.pc] s t ∧ (P → t.pc = s.pc + 2) ∧ (Q → t.pc = s.pc) :=
  ⟨_, h, s.skipIf_frame b, fun p => by simp [hP p], fun q => by simp [hQ q]⟩

/-! ## The key index (R145, R146) -/

theorem keyIndex_eq_some {b : Byte} {k : BitVec 4} : keyIndex b = some k ↔ b.toNat = k.toNat := by
  have hk := k.isLt
  unfold keyIndex
  split
  · next hle => rw [Option.some_inj, ← BitVec.toNat_inj, BitVec.toNat_ofNat, Nat.mod_eq_of_lt (by omega)]
  · next hgt =>
    have hne : b.toNat ≠ k.toNat := by omega
    simp [hne]

theorem exec_skp_of_gt {s : State} {x : Reg} (h : 0xF < (s.getV x).toNat) :
    exec (.skp x) s = .next (s.raiseInExec .keyIndex) := by
  simp [exec, execSkp, keyIndex_eq_none.mpr h]

theorem exec_sknp_of_gt {s : State} {x : Reg} (h : 0xF < (s.getV x).toNat) :
    exec (.sknp x) s = .next (s.raiseInExec .keyIndex) := by
  simp [exec, execSknp, keyIndex_eq_none.mpr h]

theorem exec_skp_of_key {s : State} {x : Reg} {k : BitVec 4} (h : (s.getV x).toNat = k.toNat) :
    exec (.skp x) s = .next (s.skipIf (s.key k)) := by
  simp [exec, execSkp, keyIndex_eq_some.mpr h]

theorem exec_sknp_of_key {s : State} {x : Reg} {k : BitVec 4} (h : (s.getV x).toNat = k.toNat) :
    exec (.sknp x) s = .next (s.skipIf (!s.key k)) := by
  simp [exec, execSknp, keyIndex_eq_some.mpr h]

/-! ## The obligations -/

/-- Settles O23: V[x] above 0xF by `exec_skp_of_gt` and `exec_sknp_of_gt`; a key index by `exec_skips`, the bit being
the key for SKP and its negation for SKNP. -/
theorem keySkips : Obligations.KeySkips := by
  intro s x
  refine ⟨encodedBy_row (.skp x), encodedBy_row (.sknp x), fun hgt => ?_, fun k hk => ?_⟩
  · have hraise : RaisesInExec 5 s (s.raiseInExec .keyIndex) := s.raiseInExec_raisesInExec .keyIndex
    exact ⟨⟨_, exec_skp_of_gt hgt, hraise⟩, _, exec_sknp_of_gt hgt, hraise⟩
  · exact ⟨exec_skips (exec_skp_of_key hk) id id,
      exec_skips (exec_sknp_of_key hk) (fun hup => by simp [hup]) (fun hdown => by simp [hdown])⟩

/-- Settles O22: each of the four is `exec_skips` on a comparison, and the comparison bit says whether the two operands
are equal. -/
theorem registerSkips : Obligations.RegisterSkips := fun _ x y kk =>
  ⟨⟨encodedBy_row (.seImm x kk), exec_skips rfl beq_iff_eq.mpr beq_eq_false_iff_ne.mpr⟩,
    ⟨encodedBy_row (.sneImm x kk), exec_skips rfl bne_iff_ne.mpr bne_eq_false_iff_eq.mpr⟩,
    ⟨encodedBy_row (.seReg x y), exec_skips rfl beq_iff_eq.mpr beq_eq_false_iff_ne.mpr⟩,
    encodedBy_row (.sneReg x y), exec_skips rfl bne_iff_ne.mpr bne_eq_false_iff_eq.mpr⟩

end Sys2Proof.Machine
end

section
/-! PROOFS. The moves, the logic and the arithmetic over V (spec 43_alu, RND apart). -/

namespace Sys2Proof.Machine

/-! ## An instruction that writes V[x], and one that writes VF before it (R151) -/

/-- An instruction that writes the byte r to V[x], its bits given one by one. -/
theorem exec_writes_bits {i : Instr} {s : State} {x : Reg} {r : Byte} {bit : Nat → Bool}
    (h : exec i s = .next (s.setV x r)) (hr : ∀ k, r.getLsbD k = bit k) :
    ∃ t, exec i s = .next t ∧ UnchangedBut [.reg x] s t ∧ ∀ k, (t.getV x).getLsbD k = bit k :=
  ⟨_, h, s.setV_frame x r, by rwa [State.getV_setV_self]⟩

/-- An instruction that writes the flag f to VF and then the result r to V[x]: the flag stays where x is not F, and the
result stays for every x. -/
theorem exec_writes_flag_and_reg {i : Instr} {s : State} {x : Reg} {f r : Byte} {flag result : Nat}
    (h : exec i s = .next (s.setFlagAndV x f r)) (hr : r.toNat = result) (hf : f.toNat = flag) :
    ∃ t, exec i s = .next t ∧ UnchangedBut [.reg x, .reg vf] s t ∧ (t.getV x).toNat = result ∧
      (x ≠ vf → (t.getV vf).toNat = flag) := by
  refine ⟨_, h, (s.setFlagAndV_frame x f r).mono (by simp), ?_, fun hx => ?_⟩
  · rwa [State.getV_setFlagAndV, if_pos rfl]
  · rwa [State.getV_setFlagAndV, if_neg hx.symm, if_pos rfl]

/-! ## The flags as numbers (R18, R158 to R162) -/

theorem toNat_flagByte (b : Bool) : (flagByte b).toNat = b.toNat := by
  cases b <;> rfl

theorem toNat_flagByte_decide (p : Prop) [Decidable p] : (flagByte (decide p)).toNat = if p then 1 else 0 := by
  by_cases hp : p <;> simp [hp, toNat_flagByte]

theorem toNat_carryFlag (a b : Byte) : (carryFlag a b).toNat = if 255 < a.toNat + b.toNat then 1 else 0 :=
  toNat_flagByte_decide _

theorem toNat_greaterFlag (a b : Byte) : (greaterFlag a b).toNat = if b.toNat < a.toNat then 1 else 0 :=
  toNat_flagByte_decide _

theorem toNat_shiftedOutLow (a : Byte) : (shiftedOutLow a).toNat = a.toNat % 2 := by
  rw [shiftedOutLow, toNat_flagByte, BitVec.getLsbD, Nat.toNat_testBit, pow_zero, Nat.div_one]

theorem toNat_shiftedOutHigh (a : Byte) : (shiftedOutHigh a).toNat = a.toNat / 128 := by
  have := a.isLt
  rw [shiftedOutHigh, toNat_flagByte, BitVec.getLsbD, Nat.toNat_testBit]
  omega

/-! ## The results as numbers -/

theorem toNat_byte_sub (a b : Byte) : (a - b).toNat = (a.toNat + 256 - b.toNat) % 256 := by
  have := b.isLt
  rw [BitVec.toNat_sub]
  omega

theorem toNat_byte_shr_one (a : Byte) : (a >>> 1).toNat = a.toNat / 2 := by
  rw [BitVec.toNat_ushiftRight, Nat.shiftRight_one]

theorem toNat_byte_shl_one (a : Byte) : (a <<< 1).toNat = a.toNat * 2 % 256 := by
  rw [BitVec.toNat_shiftLeft, Nat.shiftLeft_eq]

/-! ## The obligations -/

/-- Settles O26: the sum and the carry are computed from the old operands, before VF is written. -/
theorem addSetsTheCarry : Obligations.AddSetsTheCarry := fun _ x y =>
  ⟨encodedBy_row (.addReg x y), exec_writes_flag_and_reg rfl (BitVec.toNat_add _ _) (toNat_carryFlag _ _)⟩

/-- Settles O27: SUB and SUBN are one subtraction with the operands exchanged, by `toNat_byte_sub`. -/
theorem subtractionsSetTheFlagStrictly : Obligations.SubtractionsSetTheFlagStrictly := fun _ x y =>
  ⟨⟨encodedBy_row (.subReg x y),
      exec_writes_flag_and_reg rfl (toNat_byte_sub _ _) (toNat_greaterFlag _ _)⟩,
    encodedBy_row (.subn x y),
    exec_writes_flag_and_reg rfl (toNat_byte_sub _ _) (toNat_greaterFlag _ _)⟩

/-- Settles O28: the bit shifted out of V[x] is its remainder by 2 (`toNat_shiftedOutLow`) or its quotient by 128
(`toNat_shiftedOutHigh`). -/
theorem shiftsSetTheBitShiftedOut : Obligations.ShiftsSetTheBitShiftedOut := fun _ x y =>
  ⟨⟨encodedBy_row (.shr x y),
      exec_writes_flag_and_reg rfl (toNat_byte_shr_one _) (toNat_shiftedOutLow _)⟩,
    encodedBy_row (.shl x y),
    exec_writes_flag_and_reg rfl (toNat_byte_shl_one _) (toNat_shiftedOutHigh _)⟩

/-- Settles O24: each of the three is one write of V[x], by `State.getV_setV_self` and `State.setV_frame`. -/
theorem movesAndAddImmediate : Obligations.MovesAndAddImmediate := fun s x y kk =>
  ⟨⟨encodedBy_row (.ldImm x kk), _, rfl, s.getV_setV_self x _, s.setV_frame x _⟩,
    ⟨encodedBy_row (.addImm x kk), _, rfl,
      (congrArg BitVec.toNat (s.getV_setV_self x _)).trans (BitVec.toNat_add _ _), s.setV_frame x _⟩,
    encodedBy_row (.ldReg x y), _, rfl, s.getV_setV_self x _, s.setV_frame x _⟩

/-- Settles O25: each of the three is `exec_writes_bits` with the bits of the operation. -/
theorem logicIsBitwise : Obligations.LogicIsBitwise := fun _ x y =>
  ⟨⟨encodedBy_row (.orReg x y), exec_writes_bits rfl fun _ => BitVec.getLsbD_or⟩,
    ⟨encodedBy_row (.andReg x y), exec_writes_bits rfl fun _ => BitVec.getLsbD_and⟩,
    encodedBy_row (.xorReg x y), exec_writes_bits rfl fun _ => BitVec.getLsbD_xor⟩

end Sys2Proof.Machine
end

section
/-! PROOFS. The index register and its data addresses: LD I, ADD I, LD F, LD B, LD [I], Vx and LD Vx, [I] (spec
44_index_memory). -/

namespace Sys2Proof.Machine

/-! ## Data addresses (R63) -/

@[simp] theorem toNat_dataAddr (i : Word) (k : Nat) : (dataAddr i k).toNat = (i.toNat + k) % 4096 := by
  rw [dataAddr, BitVec.toNat_ofNat, Nat.mod_mod]

/-- Offsets below the size of memory give distinct addresses, wherever I stands. -/
theorem dataAddr_inj {i : Word} {k k' : Nat} (hk : k < 4096) (hk' : k' < 4096) :
    dataAddr i k = dataAddr i k' ↔ k = k' := by
  rw [← BitVec.toNat_inj, toNat_dataAddr, toNat_dataAddr]
  omega

theorem reg_ofNat_inj {k k' : Nat} (hk : k < 16) (hk' : k' < 16) :
    BitVec.ofNat 4 k = BitVec.ofNat 4 k' ↔ k = k' := by
  rw [← BitVec.toNat_inj, BitVec.toNat_ofNat, BitVec.toNat_ofNat]
  omega

/-! ## The values written to I (R182, R183) -/

/-- FONT_BASE is at most 0x1B0, so a glyph address stays below 65536 for every byte. -/
theorem toNat_glyphAddr (c : Config) (b : Byte) : (glyphAddr c b).toNat = c.fontBase.val + 5 * b.toNat := by
  have := b.isLt
  rw [glyphAddr, BitVec.toNat_ofNat, Nat.mod_eq_of_lt (by omega)]

/-- An instruction that writes the word w to I. -/
theorem exec_writes_index {i : Instr} {s : State} {w : Word} {n : Nat} (h : exec i s = .next (s.setI w))
    (hw : w.toNat = n) : ∃ t, exec i s = .next t ∧ t.i.toNat = n ∧ UnchangedBut [.index] s t :=
  ⟨_, h, hw, s.setI_frame w⟩

/-! ## The decimal digits (R184) -/

@[simp] theorem toNat_bcdHundreds (b : Byte) : (bcdHundreds b).toNat = b.toNat / 100 := by
  rw [bcdHundreds, BitVec.toNat_ofNat]
  omega

@[simp] theorem toNat_bcdTens (b : Byte) : (bcdTens b).toNat = b.toNat / 10 % 10 := by
  rw [bcdTens, BitVec.toNat_ofNat]
  omega

@[simp] theorem toNat_bcdOnes (b : Byte) : (bcdOnes b).toNat = b.toNat % 10 := by
  rw [bcdOnes, BitVec.toNat_ofNat]
  omega

/-! ## What the folds store and load (R185, R186) -/

theorem State.storeV_succ (s : State) (n : Nat) :
    s.storeV (n + 1) = (s.storeV n).writeByte (dataAddr s.i n) (s.getV (BitVec.ofNat 4 n)) := by
  simp [State.storeV, List.range_succ]

theorem State.loadV_succ (s : State) (n : Nat) :
    s.loadV (n + 1) = (s.loadV n).setV (BitVec.ofNat 4 n) (s.readByte (dataAddr s.i n)) := by
  simp [State.loadV, List.range_succ]

/-- The byte stored at offset k stays: the later stores go to other addresses. -/
theorem State.readByte_storeV (s : State) {n k : Nat} (hn : n ≤ 16) (hk : k < n) :
    (s.storeV n).readByte (dataAddr s.i k) = s.getV (BitVec.ofNat 4 k) := by
  induction n with
  | zero => omega
  | succ n ih =>
    rw [State.storeV_succ, State.readByte_writeByte]
    by_cases hkn : k = n
    · rw [if_pos (congrArg _ hkn), hkn]
    · rw [if_neg (by rwa [dataAddr_inj (by omega) (by omega)]), ih (by omega) (by omega)]

/-- The byte loaded into V[k] stays: the later loads go to other registers. -/
theorem State.getV_loadV (s : State) {n k : Nat} (hn : n ≤ 16) (hk : k < n) :
    (s.loadV n).getV (BitVec.ofNat 4 k) = s.readByte (dataAddr s.i k) := by
  induction n with
  | zero => omega
  | succ n ih =>
    rw [State.loadV_succ, State.getV_setV]
    by_cases hkn : k = n
    · rw [if_pos (congrArg _ hkn), hkn]
    · rw [if_neg (by rwa [reg_ofNat_inj (by omega) (by omega)]), ih (by omega) (by omega)]

/-! ## The obligations -/

/-- Settles O33: the three addresses are distinct (`dataAddr_inj`), so that no digit is overwritten. -/
theorem bcdStoresThreeDigits : Obligations.BcdStoresThreeDigits := by
  intro s x
  have h01 : dataAddr s.i 0 ≠ dataAddr s.i 1 := by simp [dataAddr_inj]
  have h02 : dataAddr s.i 0 ≠ dataAddr s.i 2 := by simp [dataAddr_inj]
  have h12 : dataAddr s.i 1 ≠ dataAddr s.i 2 := by simp [dataAddr_inj]
  refine ⟨encodedBy_row (.ldBVx x), _, rfl, ?_, ?_, ?_, ?_⟩
  · rw [State.readByte_writeByte_of_ne _ _ h02, State.readByte_writeByte_of_ne _ _ h01,
      State.readByte_writeByte_self, toNat_bcdHundreds]
  · rw [State.readByte_writeByte_of_ne _ _ h12, State.readByte_writeByte_self, toNat_bcdTens]
  · rw [State.readByte_writeByte_self, toNat_bcdOnes]
  · exact (((State.writeByte_frame _ _ _).mono (by simp)).trans ((State.writeByte_frame _ _ _).mono (by simp))).trans
      ((State.writeByte_frame _ _ _).mono (by simp))

/-- Settles O34: the bytes by `State.readByte_storeV`, the frame by `State.storeV_frame`. -/
theorem storeRegistersToMemory : Obligations.StoreRegistersToMemory := by
  intro s x
  refine ⟨encodedBy_row (.storeRegs x), _, rfl, fun k hk => ?_, s.storeV_frame _⟩
  simpa using s.readByte_storeV (k := k.toNat) (by omega : x.toNat + 1 ≤ 16) (by omega)

/-- Settles O35: the registers by `State.getV_loadV`, the frame by `State.loadV_frame`. -/
theorem loadRegistersFromMemory : Obligations.LoadRegistersFromMemory := by
  intro s x
  refine ⟨encodedBy_row (.loadRegs x), _, rfl, fun k hk => ?_, s.loadV_frame _⟩
  simpa using s.getV_loadV (k := k.toNat) (by omega : x.toNat + 1 ≤ 16) (by omega)

/-- Settles O30: each of the three is one write of I; the sum of ADD I wraps at 16 bits, the glyph address of LD F does
not (`toNat_glyphAddr`). -/
theorem indexRegisterWrites : Obligations.IndexRegisterWrites := fun s x nnn =>
  ⟨⟨encodedBy_row (.ldI nnn), exec_writes_index rfl (toNat_absoluteTarget nnn)⟩,
    ⟨encodedBy_row (.addIVx x), exec_writes_index rfl (by rw [BitVec.toNat_add, toNat_byteToWord])⟩,
    encodedBy_row (.ldFVx x), exec_writes_index rfl (toNat_glyphAddr s.config (s.getV x))⟩

end Sys2Proof.Machine
end

section
/-! PROOFS. The display: CLS and DRW (spec 45_display). -/

namespace Sys2Proof.Machine

/-! ## The pixels of a sprite (R197, R200) -/

/-- The pixels the statements speak of are those the drawing loops toggle: `pixelRow` and `pixelColumn` are the wrapped
coordinates as numbers. -/
theorem spriteCovers_iff {s : State} {px py : Byte} {n : Nat} {r : Fin 32} {c : Fin 64} :
    SpriteCovers s px py n r c ↔ ∃ row < n, ∃ col < 8, spriteBit (s.readByte (dataAddr s.i row)) col = true ∧
      r = pixelRow py row ∧ c = pixelColumn px col := by
  simp only [SpriteCovers, spriteBit, pixelRow, pixelColumn, Fin.ext_iff]
  constructor
  · rintro ⟨row, col, hrow, hcol, hbit⟩
    exact ⟨row, hrow, col, hcol, hbit⟩
  · rintro ⟨row, hrow, col, hcol, hbit⟩
    exact ⟨row, col, hrow, hcol, hbit⟩

/-- `Drawn` depends only on which pixels are in the set. -/
theorem Drawn.congr {C D : Fin 32 → Fin 64 → Prop} {s t : State} (h : Drawn C s t) (hD : ∀ r c, D r c ↔ C r c) :
    Drawn D s t := by
  obtain rfl : D = C := funext₂ fun r c => propext (hD r c)
  exact h

/-- DRW clears VF and then draws the sprite at I; clearing VF moves neither the sprite nor a pixel. -/
theorem exec_drw_drawn (s : State) (x y : Reg) (n : BitVec 4) :
    ∃ t, exec (.drw x y n) s = .next t ∧
      Drawn (SpriteCovers s (s.getV x) (s.getV y) n.toNat) (s.setV vf 0) t :=
  ⟨_, rfl, ((s.setV vf 0).drawRows_drawn (s.getV x) (s.getV y) n.isLt).congr fun _ _ => spriteCovers_iff⟩

/-! ## The obligations -/

/-- Settles O38: the pixels and VF by `exec_drw_drawn`, VF being 0 before the sprite is drawn; the frame by
`exec_footprint`. -/
theorem drawTogglesTheSprite : Obligations.DrawTogglesTheSprite := by
  intro s x y n
  obtain ⟨t, hexec, hdrawn⟩ := exec_drw_drawn s x y n
  have hflag : (s.setV vf 0).getV vf = 0 := s.getV_setV_self vf 0
  refine ⟨encodedBy_row (.drw x y n), t, hexec, hdrawn.toggled, hdrawn.kept, hdrawn.flag_set,
    fun hclear => (hdrawn.flag_kept hclear).trans hflag, fun p hvf hpixel => exec_footprint hexec p ?_⟩
  rintro (rfl | ⟨r, c, rfl⟩)
  · exact hvf rfl
  · exact hpixel r c rfl

/-- Settles O37: the pixels by `State.pixel_clearVideo`, the frame by `exec_footprint`. -/
theorem clsClearsEveryPixel : Obligations.ClsClearsEveryPixel :=
  ⟨encodedBy_row .cls, fun s => ⟨s.clearVideo, rfl, s.pixel_clearVideo, fun p hpixel =>
    exec_footprint (i := .cls) rfl p fun ⟨r, c, hp⟩ => hpixel r c hp⟩⟩

end Sys2Proof.Machine
end

section
/-! PROOFS. The timer transfers and the wait for a key: LD Vx, DT; LD DT, Vx; LD ST, Vx; LD Vx, K (spec
46_timers_input). -/

namespace Sys2Proof.Machine

/-! ## What the end of a completed cycle leaves in the timers (R118, R121) -/

theorem State.toNat_dt_endCycle {t : State} (ht : t.halted = false) (s : State) :
    (s.endCycle t).dt.toNat = t.dt.toNat - 1 := by
  rw [State.endCycle_of_running ht, State.countdown_dt, toNat_timerTick]

theorem State.toNat_st_endCycle {t : State} (ht : t.halted = false) (s : State) :
    (s.endCycle t).st.toNat = t.st.toNat - 1 := by
  rw [State.endCycle_of_running ht, State.countdown_st, toNat_timerTick]

/-! ## The lowest pressed key (R212) -/

theorem State.lowestKey_eq_some {s : State} {k : BitVec 4} :
    s.lowestKey = some k.toNat ↔ s.key k = true ∧ ∀ j : BitVec 4, j.toNat < k.toNat → s.key j = false := by
  simp only [State.lowestKey, List.find?_range_eq_some, List.mem_range, k.isLt, true_and, BitVec.ofNat_toNat,
    BitVec.setWidth_eq, Bool.not_eq_true']
  refine and_congr_right fun _ => ⟨fun h j hj => ?_, fun h j hj => h _ ?_⟩
  · simpa using h j.toNat hj
  · rwa [BitVec.toNat_ofNat, Nat.mod_eq_of_lt (hj.trans k.isLt)]

theorem State.lowestKey_eq_none {s : State} : s.lowestKey = none ↔ ∀ k, s.key k = false := by
  simp only [State.lowestKey, List.find?_range_eq_none, Bool.not_eq_true']
  refine ⟨fun h k => ?_, fun h j _ => h _⟩
  simpa using h k.toNat k.isLt

theorem exec_ldVxK_of_lowestKey {s : State} {k : Nat} (h : s.lowestKey = some k) (x : Reg) :
    exec (.ldVxK x) s = .next (s.setV x (BitVec.ofNat 8 k)) := by
  simp [exec, execLdVxK, h]

theorem exec_ldVxK_of_no_key {s : State} (h : s.lowestKey = none) (x : Reg) :
    exec (.ldVxK x) s = .next (s.setPc (s.pc - 2)) := by
  simp [exec, execLdVxK, h]

/-- A key index fits in a byte, so V[x] holds it as it is. -/
theorem toNat_keyByte (k : BitVec 4) : (BitVec.ofNat 8 k.toNat).toNat = k.toNat :=
  Nat.mod_eq_of_lt (k.isLt.trans (by decide))

/-! ## The obligations -/

/-- Settles O42: each of the three is one write that leaves the engine running, so that the cycle ends with the
countdown of the timer (`State.toNat_dt_endCycle`, `State.toNat_st_endCycle`). -/
theorem timerTransfers : Obligations.TimerTransfers := by
  intro s0 s x hrun
  refine ⟨⟨encodedBy_row (.ldVxDt x), _, rfl, s.getV_setV_self x _, s.setV_frame x _, ?_⟩,
    ⟨encodedBy_row (.ldDtVx x), _, rfl, rfl, s.setDt_frame _, ?_⟩,
    encodedBy_row (.ldStVx x), _, rfl, rfl, s.setSt_frame _, ?_⟩
  · simp [State.toNat_dt_endCycle, hrun]
  · simp [State.toNat_dt_endCycle, hrun]
  · simp [State.toNat_st_endCycle, hrun]

/-- Settles O43: a lowest pressed key by `State.lowestKey_eq_some`, no pressed key by `State.lowestKey_eq_none`. -/
theorem keyWait : Obligations.KeyWait := by
  refine fun s x => ⟨encodedBy_row (.ldVxK x), fun k hk hlow => ?_, fun hnone => ?_⟩
  · have hlowest : s.lowestKey = some k.toNat := State.lowestKey_eq_some.mpr ⟨hk, hlow⟩
    refine ⟨_, exec_ldVxK_of_lowestKey hlowest x, ?_, s.setV_frame x _⟩
    rw [State.getV_setV_self, toNat_keyByte]
  · have hnokey : s.lowestKey = none := State.lowestKey_eq_none.mpr hnone
    exact ⟨_, exec_ldVxK_of_no_key hnokey x, rfl, s.setPc_frame _⟩

end Sys2Proof.Machine
end

section
/-! PROOFS. The fatal conditions over the whole cycle: which one a cycle raises, and the entry it makes (spec
60_exceptions). -/

namespace Sys2Proof.Machine

/-! ## The table of the conditions, case by case (R225) -/

/-- The fetch writes pc and the latch only, and no execute-stage condition reads either. -/
@[simp] theorem executeCause_fetched (s : State) (i : Instr) : executeCause s.fetched i = executeCause s i := by
  cases i <;> rfl

theorem fatalCause_of_misaligned {s : State} (hodd : s.pc.toNat % 2 = 1) : fatalCause s = some (1, 0) := by
  simp [fatalCause, hodd]

theorem fatalCause_of_range {s : State} (heven : s.pc.toNat % 2 = 0) (hhigh : 0xFFE < s.pc.toNat) :
    fatalCause s = some (2, 0) := by
  simp [fatalCause, heven, hhigh]

theorem fatalCause_of_unknown {s : State} {why : UnknownWord} (hf : Fetches s)
    (hd : decode (fetchedWord s) = .unknown why) : fatalCause s = none := by
  obtain ⟨-, heven, hle⟩ := hf
  simp [fatalCause, heven, Nat.not_lt.mpr hle, hd]

theorem fatalCause_of_inst {s : State} {i : Instr} (hf : Fetches s) (hd : decode (fetchedWord s) = .inst i) :
    fatalCause s = (executeCause s i).map fun c => (c, fetchedWord s) := by
  obtain ⟨-, heven, hle⟩ := hf
  simp [fatalCause, heven, Nat.not_lt.mpr hle, hd]

/-! ## The entry of an execute-stage condition (R226, R36) -/

/-- Seen over the whole cycle, an execute-stage condition is raised at the address of its instruction: the raise undoes
the pre-increment and the end of the cycle undoes the latch. -/
theorem State.endCycle_raiseInExec_fetched (s : State) (c : Cause) :
    s.endCycle (s.fetched.raiseInExec c) = s.raiseHalt c s.pc (fetchedWord s) := by
  have hpc : s.fetched.pc - 2 = s.pc := by simp
  have hword : s.fetched.opcode = fetchedWord s := fetch16_eq_fetchedWord s
  rw [State.endCycle_of_halted (State.halted_raiseInExec _ c), State.raiseInExec, hpc, hword]
  rfl

/-- A cycle of a running engine either raises the condition that the table gives, at pc, or the table gives none and it
ends running. -/
theorem step_raises {s t : State} (hrun : Running s) (h : step s = .next t) :
    (∃ (c : Cause) (op : Word), fatalCause s = some (c.code, op) ∧ t = s.raiseHalt c s.pc op) ∨
    (fatalCause s = none ∧ t.halted = false) := by
  rcases step_cases h with ⟨hh, -⟩ | ⟨-, hodd, rfl⟩ | ⟨-, heven, hhigh, rfl⟩ | ⟨hf, ⟨why, hd⟩, rfl⟩ |
    ⟨i, u, hf, hd, hx, rfl⟩
  · exact absurd hh (by simp [hrun])
  · exact .inl ⟨.fetchMisaligned, 0, fatalCause_of_misaligned hodd, rfl⟩
  · exact .inl ⟨.fetchRange, 0, fatalCause_of_range heven hhigh, rfl⟩
  · rw [fetch16_eq_fetchedWord] at hd
    exact .inr ⟨fatalCause_of_unknown hf hd, by simp [hrun]⟩
  · rw [fetch16_eq_fetchedWord] at hd
    rw [fatalCause_of_inst hf hd, ← executeCause_fetched]
    rcases exec_raises hx with ⟨c, hc, rfl⟩ | ⟨hnone, hsame⟩
    · exact .inl ⟨c, fetchedWord s, by rw [hc, Option.map_some], s.endCycle_raiseInExec_fetched c⟩
    · have hu : u.halted = s.fetched.halted := halted_of_same_status (hsame .status (by simp))
      exact .inr ⟨by rw [hnone, Option.map_none], by rw [State.halted_endCycle, hu, State.halted_fetched, hrun]⟩

/-! ## The obligation -/

/-- Settles O10: by `step_raises` a condition of the table is one `State.raiseHalt` at pc, whose entry is that of
`State.raiseHalt_haltsWith`. -/
theorem fatalConditionsFollowTheTable : Obligations.FatalConditionsFollowTheTable := by
  intro s t hrun h
  rcases step_raises hrun h with ⟨c, op, hfatal, rfl⟩ | ⟨hnone, ht⟩
  · refine ⟨fun c' op' hfatal' => ?_, fun hnone => ?_⟩
    · obtain ⟨rfl, rfl⟩ : c.code = c' ∧ op = op' := by simpa [hfatal] using hfatal'
      exact s.raiseHalt_haltsWith c op
    · simp [hfatal] at hnone
  · exact ⟨fun c op hfatal => by simp [hnone] at hfatal, fun _ => ht⟩

end Sys2Proof.Machine
end

section
/-! PROOFS. Decoding an instruction's word gives the instruction back, and encoding a decoded instruction gives the word
back (spec 30_encoding R83, R92, R94). -/

namespace Sys2Proof

/-! ## Decoding an encoded instruction -/

/-- Every operand field holds a bit vector of the field's width, so it fits. -/
theorem Instr.wellFormed_eq_true (i : Instr) : i.wellFormed = true := by
  cases i <;> simp [Instr.wellFormed, Instr.fields, Field.fits_toNat]

/-- The group of an instruction's word selects the decoder's branch, and the fields of the word are the operands; in
groups 0, 8, E and F the fixed low digits select the instruction. -/
theorem decode_encode (i : Instr) : decode (encode i) = .inst i := by
  cases i with
  | cls => rfl
  | ret => rfl
  | jp | call | ldI | jpV0 => simp [encode, decode]
  | seImm | sneImm | ldImm | addImm | rnd => simp [encode, decode]
  | seReg | sneReg | drw => simp [encode, decode]
  | ldReg | orReg | andReg | xorReg | addReg | subReg | shr | subn | shl =>
    rw [encode, decode_group8 (fieldG_xyn _ _ _ _)]; simp [decodeGroup8]
  | skp | sknp => rw [encode, decode_groupE (fieldG_xkk _ _ _)]; simp [decodeGroupE]
  | ldVxDt | ldVxK | ldDtVx | ldStVx | addIVx | ldFVx | ldBVx | storeRegs | loadRegs =>
    rw [encode, decode_groupF (fieldG_xkk _ _ _)]; simp [decodeGroupF]

/-! ## The obligations -/

/-- Settles O3: the word by `decode_encode`, the stream by `decodeBytes_encodeBytes`. -/
theorem decodeOfEncode : Obligations.DecodeOfEncode := fun i rest =>
  ⟨i.wellFormed_eq_true, decode_encode i, by rw [decodeBytes_encodeBytes, decode_encode]⟩

/-- Settles O4: `encode_of_decode`, group by group. -/
theorem encodeOfDecode : Obligations.EncodeOfDecode := fun _ _ => encode_of_decode

/-- Settles O2: the twelve words are closed terms, and the decoder computes. -/
theorem specWordsDecode : Obligations.SpecWordsDecode :=
  ⟨rfl, rfl, rfl, rfl, rfl, rfl, rfl, rfl, rfl, rfl, rfl, rfl⟩

end Sys2Proof
end

section
/-! PROOFS. One cycle as its decoded instruction runs it, and the totality of step, exec and the transactions (spec
40_cycle R111, 20_memory R70). -/

namespace Sys2Proof.Machine

/-! ## Every instruction, cycle and transaction answers a next state (R70) -/

/-- Only the stack, the key index and the pressed keys make an instruction branch, and every branch answers. -/
theorem exec_answers (i : Instr) (s : State) : ∃ t, exec i s = .next t := by
  cases i with
  | ret => unfold exec execRet; dsimp only; split <;> exact ⟨_, rfl⟩
  | call nnn => unfold exec execCall; dsimp only; split <;> exact ⟨_, rfl⟩
  | skp x => unfold exec execSkp; dsimp only; split <;> exact ⟨_, rfl⟩
  | sknp x => unfold exec execSknp; dsimp only; split <;> exact ⟨_, rfl⟩
  | ldVxK x => unfold exec execLdVxK; dsimp only; split <;> exact ⟨_, rfl⟩
  | _ => exact ⟨_, rfl⟩

/-- A cycle whose instruction answers u ends in the state that `State.endCycle` makes of u. -/
theorem step_of_inst {s u : State} {i : Instr} (hf : Fetches s) (hd : decode (fetchedWord s) = .inst i)
    (hx : exec i s.fetched = .next u) : step s = .next (s.endCycle u) := by
  obtain ⟨hrun, heven, hle⟩ := hf
  rw [← fetch16_eq_fetchedWord] at hd
  rw [step, beginCycle_dispatch hrun ((getLsbD_zero_eq_false_iff _).mpr heven) hle hd]
  simp only [hx]

theorem step_answers (s : State) : ∃ t, step s = .next t := by
  cases hb : s.beginCycle with
  | done t => exact ⟨t, step_of_done hb⟩
  | dispatch i t =>
    obtain ⟨u, hu⟩ := exec_answers i t
    exact ⟨s.endCycle u, by simp [step, hb, hu]⟩

theorem transact_answers (x : Transaction) (s : State) : ∃ t, transact x s = .next t := by
  cases x with
  | cycle => exact step_answers s
  | _ => exact ⟨_, rfl⟩

/-- The state an instruction sees, field by field. -/
theorem State.fetched_eq (s : State) : s.fetched = { s with opcode := fetchedWord s, pc := s.pc + 2 } := by
  rw [← fetch16_eq_fetchedWord]
  rfl

/-! ## The idle end (R269) -/

/-- An address of at most 0xFFE is the target of the jump that holds its low 12 bits. -/
theorem absoluteTarget_setWidth {p : Word} (hp : p.toNat ≤ 0xFFE) : absoluteTarget (p.setWidth 12) = p :=
  BitVec.eq_of_toNat_eq (by rw [toNat_absoluteTarget, BitVec.toNat_setWidth]; omega)

theorem decode_selfJump (p : Word) : decode (0x1#4 ++ p.setWidth 12) = .inst (.jp (p.setWidth 12)) :=
  decode_encode (.jp (p.setWidth 12))

/-- With both timers 0 a jump to the instruction's own address undoes the pre-increment, and nothing counts down. -/
theorem State.countdown_fetched_setPc {s : State} (hdt : s.dt = 0) (hst : s.st = 0) :
    (s.fetched.setPc s.pc).countdown = { s with opcode := fetchedWord s } := by
  simp [State.fetched_eq, State.setPc, State.countdown, timerTick, hdt, hst]

/-! ## The obligations -/

/-- Settles O11: `step_answers`, `exec_answers` and `transact_answers`. -/
theorem everyCycleAnswersANextState : Obligations.EveryCycleAnswersANextState :=
  ⟨step_answers, exec_answers, transact_answers⟩

/-- Settles O6: `step_of_inst`, with the state the instruction sees and the end of the cycle written out. -/
theorem stepRunsTheDecodedInstruction : Obligations.StepRunsTheDecodedInstruction := by
  intro s i hf hd
  obtain ⟨u, hu⟩ := exec_answers i s.fetched
  rw [step_of_inst hf hd hu, ← State.fetched_eq, hu]
  rfl

/-- Settles O51: the cycle runs the self-jump, which leaves pc at P (`absoluteTarget_setWidth`), and the timers stay
0. -/
theorem idleEndStaysIdle : Obligations.IdleEndStaysIdle := by
  rintro s p ⟨hrun, rfl, heven, hle, hword, hdt, hst⟩
  refine ⟨?_, hrun, rfl, heven, hle, hword, hdt, hst⟩
  have hrun' : (s.fetched.setPc s.pc).halted = false := hrun
  rw [step_of_inst ⟨hrun, heven, hle⟩ (hword ▸ decode_selfJump s.pc) rfl, absoluteTarget_setWidth hle,
    State.endCycle_of_running hrun', State.countdown_fetched_setPc hdt hst, hword]

end Sys2Proof.Machine
end

section
/-! PROOFS. What a whole cycle may change, and who may change it (spec 10_state R24, 20_memory R66). -/

namespace Sys2Proof.Machine

/-! ## The parts that change outside the instruction -/

/-- The parts a cycle may write around its instruction: the fetch, the report of an unknown word, a raise and the
countdown (R111, R116, R118, R226). -/
def cycleParts : List Part := [.pc, .opcode, .dt, .st, .status, .faultPc, .faultOp, .unkOp, .unkPc]

/-- Any other part that a cycle changes is in the footprint of the instruction the cycle ran. -/
theorem step_changes {s t : State} {p : Part} (h : step s = .next t) (hp : p ∉ cycleParts) (hne : ¬p.Same s t) :
    ∃ i u, Fetches s ∧ decode (fetchedWord s) = .inst i ∧ exec i s.fetched = .next u ∧ p.Same u t ∧
      Footprint s.fetched p i := by
  have hfetch : p.Same s s.fetched := s.fetched_frame.mono (by simp [cycleParts]) p hp
  rcases step_cases h with ⟨-, rfl⟩ | ⟨-, -, rfl⟩ | ⟨-, -, -, rfl⟩ | ⟨-, -, rfl⟩ | ⟨i, u, hf, hd, hx, rfl⟩
  · exact absurd (UnchangedBut.refl _ _ p hp) hne
  · exact absurd ((s.raiseHalt_frame _ _ _).mono (by simp [cycleParts]) p hp) hne
  · exact absurd ((s.raiseHalt_frame _ _ _).mono (by simp [cycleParts]) p hp) hne
  · have hreport : UnchangedBut cycleParts s.fetched (s.fetched.reportUnknown (s.fetch16 s.pc) s.pc).countdown :=
      ((State.reportUnknown_frame _ _ _).mono (by simp [cycleParts])).trans
        ((State.countdown_frame _).mono (by simp [cycleParts]))
    exact absurd (hfetch.trans (hreport p hp)) hne
  · have hend : p.Same u (s.endCycle u) := (s.endCycle_frame u).mono (by simp [cycleParts]) p hp
    refine ⟨i, u, hf, fetch16_eq_fetchedWord s ▸ hd, hx, hend, ?_⟩
    by_contra hout
    exact hne ((hfetch.trans (exec_footprint hx p hout)).trans hend)

theorem step_footprint {s t : State} {p : Part} (h : step s = .next t) (hp : p ∉ cycleParts) (hne : ¬p.Same s t) :
    ∃ i, decode (fetchedWord s) = .inst i ∧ Footprint s.fetched p i :=
  let ⟨i, _, _, hd, _, _, hfoot⟩ := step_changes h hp hne
  ⟨i, hd, hfoot⟩

/-! ## Whose footprint a part is in -/

namespace Footprint

variable {s : State} {i : Instr}

theorem byte {a : Addr} (h : Footprint s (.byte a) i) : ∃ x, i = .ldBVx x ∨ i = .storeRegs x := by
  cases i with
  | ldBVx x => exact ⟨x, .inl rfl⟩
  | storeRegs x => exact ⟨x, .inr rfl⟩
  | _ => simp [Footprint, DrawPart] at h

theorem pixel {r : Fin 32} {c : Fin 64} (h : Footprint s (.pixel r c) i) : i = .cls ∨ ∃ x y n, i = .drw x y n := by
  cases i with
  | cls => exact .inl rfl
  | drw x y n => exact .inr ⟨x, y, n, rfl⟩
  | _ => simp [Footprint] at h

theorem index (h : Footprint s .index i) : (∃ nnn, i = .ldI nnn) ∨ ∃ x, i = .addIVx x ∨ i = .ldFVx x := by
  cases i with
  | ldI nnn => exact .inl ⟨nnn, rfl⟩
  | addIVx x => exact .inr ⟨x, .inl rfl⟩
  | ldFVx x => exact .inr ⟨x, .inr rfl⟩
  | _ => simp [Footprint, DrawPart] at h

theorem sp (h : Footprint s .sp i) : i = .ret ∨ ∃ nnn, i = .call nnn := by
  cases i with
  | ret => exact .inl rfl
  | call nnn => exact .inr ⟨nnn, rfl⟩
  | _ => simp [Footprint, DrawPart] at h

theorem stackEntry {k : Fin 16} (h : Footprint s (.stackEntry k) i) : (∃ nnn, i = .call nnn) ∧ k.val = s.sp.val := by
  cases i with
  | call nnn => exact ⟨⟨nnn, rfl⟩, by simpa [Footprint] using h⟩
  | _ => simp [Footprint, DrawPart] at h

theorem draws (h : Footprint s .draws i) : ∃ x kk, i = .rnd x kk := by
  cases i with
  | rnd x kk => exact ⟨x, kk, rfl⟩
  | _ => simp [Footprint, DrawPart] at h

theorem not_key (k : BitVec 4) : ¬Footprint s (.key k) i := by
  cases i <;> simp [Footprint, DrawPart]

theorem not_config : ¬Footprint s .config i := by
  cases i <;> simp [Footprint, DrawPart]

/-- A register of the footprint stands in the last column of R24. -/
theorem reg {r : Reg} (h : Footprint s (.reg r) i) : r ∈ writtenRegisters i := by
  cases i with
  | drw x y n => simpa [Footprint, DrawPart, writtenRegisters] using h
  | ldImm | addImm | ldReg | orReg | andReg | xorReg | addReg | subReg | shr | subn | shl | rnd | ldVxDt | ldVxK |
      loadRegs =>
    simpa [Footprint, writtenRegisters] using h
  | _ => simp [Footprint] at h

end Footprint

/-! ## The obligations -/

/-- Settles O46: a part that changes is in the footprint of the instruction (`step_footprint`), and each part is in the
footprint of the named instructions only. -/
theorem onlyTheNamedInstructionsWrite : Obligations.OnlyTheNamedInstructionsWrite := by
  intro s t h
  refine ⟨fun a hne => ?_, fun r c hne => ?_, fun hne => ?_, fun hne => ?_, fun k hne => ?_, fun hne => ?_,
    fun k => ?_, ?_⟩
  · obtain ⟨i, hd, hfoot⟩ := step_footprint (p := .byte a) h (by simp [cycleParts]) hne
    simpa only [hd, Decoded.inst.injEq] using hfoot.byte
  · obtain ⟨i, hd, hfoot⟩ := step_footprint (p := .pixel r c) h (by simp [cycleParts]) hne
    simpa only [hd, Decoded.inst.injEq] using hfoot.pixel
  · obtain ⟨i, hd, hfoot⟩ := step_footprint (p := .index) h (by simp [cycleParts]) hne
    simpa only [hd, Decoded.inst.injEq] using hfoot.index
  · obtain ⟨i, hd, hfoot⟩ := step_footprint (p := .sp) h (by simp [cycleParts]) hne
    simpa only [hd, Decoded.inst.injEq] using hfoot.sp
  · obtain ⟨i, hd, hfoot⟩ := step_footprint (p := .stackEntry k) h (by simp [cycleParts]) hne
    simpa only [hd, Decoded.inst.injEq] using hfoot.stackEntry.1
  · obtain ⟨i, hd, hfoot⟩ := step_footprint (p := .draws) h (by simp [cycleParts]) hne
    simpa only [hd, Decoded.inst.injEq] using hfoot.draws
  · by_contra hne
    obtain ⟨i, -, hfoot⟩ := step_footprint (p := .key k) h (by simp [cycleParts]) hne
    exact Footprint.not_key k hfoot
  · by_contra hne
    obtain ⟨i, -, hfoot⟩ := step_footprint (p := .config) h (by simp [cycleParts]) hne
    exact Footprint.not_config hfoot

/-- Settles O47: `step_footprint` for a register, whose footprint is the table's last column (`Footprint.reg`). -/
theorem registersChangeOnlyByTheTable : Obligations.RegistersChangeOnlyByTheTable := by
  intro s t r h hne
  obtain ⟨i, hd, hfoot⟩ := step_footprint (p := .reg r) h (by simp [cycleParts]) hne
  exact ⟨i, hd, hfoot.reg⟩

end Sys2Proof.Machine
end

section
/-! PROOFS. Where pc goes, and the bounds of pc and of the stack entries (spec 10_state R26, 40_cycle R120). -/

namespace Sys2Proof.Machine

/-! ## Single additions to pc do not wrap (R114) -/

theorem toNat_pc_add_two {w : Word} (h : w.toNat ≤ 0xFFE) : (w + 2).toNat = w.toNat + 2 := by
  bv_omega

theorem State.toNat_pc_skipIf_fetched {s : State} (hle : s.pc.toNat ≤ 0xFFE) (b : Bool) :
    (s.fetched.skipIf b).pc.toNat = if b then s.pc.toNat + 4 else s.pc.toNat + 2 := by
  rw [State.skipIf_pc, State.fetched_pc]
  split
  · bv_omega
  · exact toNat_pc_add_two hle

/-! ## SKP and SKNP with a key index (R145, R146) -/

theorem toNat_setWidth_four {b : Byte} (h : b.toNat ≤ 0xF) : b.toNat = (b.setWidth 4).toNat := by
  rw [BitVec.toNat_setWidth]
  omega

theorem exec_skp_of_le {s : State} {x : Reg} (h : (s.getV x).toNat ≤ 0xF) :
    exec (.skp x) s = .next (s.skipIf (skipTaken s (.skp x))) :=
  exec_skp_of_key (toNat_setWidth_four h)

theorem exec_sknp_of_le {s : State} {x : Reg} (h : (s.getV x).toNat ≤ 0xF) :
    exec (.sknp x) s = .next (s.skipIf (skipTaken s (.sknp x))) :=
  exec_sknp_of_key (toNat_setWidth_four h)

theorem skp_le_of_executeCause {s : State} {x : Reg} (h : executeCause s (.skp x) = none) : (s.getV x).toNat ≤ 0xF := by
  simpa [executeCause] using h

theorem sknp_le_of_executeCause {s : State} {x : Reg} (h : executeCause s (.sknp x) = none) :
    (s.getV x).toNat ≤ 0xF := by
  simpa [executeCause] using h

theorem ret_entry_of_executeCause {s : State} (h : executeCause s .ret = none) :
    ∃ k : Fin 16, s.sp.val = k.val + 1 := by
  have hlt := s.sp.isLt
  have hpos : s.sp.val ≠ 0 := by simpa [executeCause] using h
  exact ⟨⟨s.sp.val - 1, by omega⟩, (Nat.succ_pred_eq_of_ne_zero hpos).symm⟩

theorem call_room_of_executeCause {s : State} {nnn : BitVec 12} (h : executeCause s (.call nnn) = none) :
    ∃ k : Fin 16, s.sp.val = k.val := by
  have hlt := s.sp.isLt
  have hne : s.sp.val ≠ 16 := by simpa [executeCause] using h
  exact ⟨⟨s.sp.val, by omega⟩, rfl⟩

/-- An instruction that leaves the engine running had no execute-stage condition. -/
theorem executeCause_eq_none_of_running {i : Instr} {s t : State} (h : exec i s = .next t) (ht : t.halted = false) :
    executeCause s i = none := by
  rcases exec_raises h with ⟨c, -, rfl⟩ | ⟨hnone, -⟩
  · simp at ht
  · exact hnone

/-! ## pc after a completed instruction (R120) -/

/-- An instruction that does not write pc leaves the pre-incremented one. -/
theorem exec_keeps_pc {i : Instr} {s u : State} (hle : s.pc.toNat ≤ 0xFFE) (h : exec i s.fetched = .next u)
    (hout : ¬Footprint s.fetched .pc i) : u.pc.toNat = s.pc.toNat + 2 :=
  (congrArg BitVec.toNat (exec_footprint h .pc hout)).trans (toNat_pc_add_two hle)

/-- Fx0A with no key pressed goes back to its own address, so that it runs again. -/
theorem exec_ldVxK_pc {s u : State} {x : Reg} (hle : s.pc.toNat ≤ 0xFFE) (h : exec (.ldVxK x) s.fetched = .next u) :
    u.pc.toNat = pcAfter s (.ldVxK x) := by
  cases hk : s.lowestKey with
  | none =>
    cases (exec_ldVxK_of_no_key (s := s.fetched) hk x).symm.trans h
    rw [pcAfter, if_pos (State.lowestKey_eq_none.mp hk)]
    simp
  | some k =>
    cases (exec_ldVxK_of_lowestKey (s := s.fetched) hk x).symm.trans h
    have hpressed : ¬∀ k, s.key k = false := by simp [← State.lowestKey_eq_none, hk]
    rw [pcAfter, if_neg hpressed]
    exact toNat_pc_add_two hle

theorem pcAfter_ret {s : State} {k : Fin 16} (hk : s.sp.val = k.val + 1) :
    pcAfter s .ret = (s.stackAt k).toNat := by
  have htop : (⟨s.sp.val - 1, by omega⟩ : Fin 16) = k := Fin.ext (by simp [hk])
  rw [pcAfter, htop]

/-- pc after an instruction that left the engine running is the table's value. -/
theorem exec_pc {i : Instr} {s u : State} (hle : s.pc.toNat ≤ 0xFFE) (h : exec i s.fetched = .next u)
    (hu : u.halted = false) : u.pc.toNat = pcAfter s i := by
  have hnone := executeCause_eq_none_of_running h hu
  cases i with
  | jp nnn => cases h; exact toNat_absoluteTarget nnn
  | jpV0 nnn => cases h; exact toNat_absoluteTarget_add_byteToWord nnn (s.getV 0)
  | call nnn =>
    obtain ⟨k, hk⟩ := call_room_of_executeCause hnone
    obtain ⟨t, ht, -, -, hpc, -⟩ := exec_call_pushes hk nnn
    cases ht.symm.trans h
    exact hpc
  | ret =>
    obtain ⟨k, hk⟩ := ret_entry_of_executeCause hnone
    obtain ⟨t, ht, hpc, -, -⟩ := exec_ret_pops hk
    cases ht.symm.trans h
    exact (congrArg BitVec.toNat hpc).trans (pcAfter_ret hk).symm
  | seImm | sneImm | seReg | sneReg => cases h; exact State.toNat_pc_skipIf_fetched hle _
  | skp x =>
    cases (exec_skp_of_le (skp_le_of_executeCause hnone)).symm.trans h
    exact State.toNat_pc_skipIf_fetched hle _
  | sknp x =>
    cases (exec_sknp_of_le (sknp_le_of_executeCause hnone)).symm.trans h
    exact State.toNat_pc_skipIf_fetched hle _
  | ldVxK x => exact exec_ldVxK_pc hle h
  | _ => exact exec_keeps_pc hle h (by simp [Footprint, DrawPart])

/-- A cycle that ends halted, whether it began so or raised a condition, leaves pc. -/
theorem step_pc_of_halted {s t : State} (h : step s = .next t) (ht : t.halted = true) : t.pc = s.pc := by
  cases hs : s.halted with
  | true => cases (step_of_halted hs).symm.trans h; rfl
  | false =>
    rcases step_raises hs h with ⟨c, op, -, rfl⟩ | ⟨-, hrun⟩
    · rfl
    · simp [hrun] at ht

/-! ## The bounds (R26) -/

theorem skip_le {a : Nat} (h : a ≤ 0xFFE) (b : Bool) : (if b then a + 4 else a + 2) ≤ 0x10FE := by
  split <;> omega

/-- Every value of the table is at most 0x10FE: the largest is that of JP V0, 0xFFF + 0xFF. -/
theorem pcAfter_le {s : State} (hs : PcBounded s) (hle : s.pc.toNat ≤ 0xFFE) (i : Instr) : pcAfter s i ≤ 0x10FE := by
  cases i with
  | jp nnn => exact (Nat.le_of_lt nnn.isLt).trans (by decide)
  | call nnn => exact (Nat.le_of_lt nnn.isLt).trans (by decide)
  | jpV0 nnn =>
    exact (Nat.add_le_add (Nat.le_pred_of_lt nnn.isLt) (Nat.le_pred_of_lt (s.getV 0).isLt)).trans (by decide)
  | ret => exact (hs.2 _).1.trans (by decide)
  | ldVxK x => rw [pcAfter]; split <;> omega
  | seImm | sneImm | seReg | sneReg | skp | sknp => exact skip_le hle _
  | _ => exact (Nat.add_le_add_right hle 2).trans (by decide)

/-- A stack entry that a cycle changes is the return address of a CALL: the address of the CALL plus 2. -/
theorem step_stackAt {s t : State} (h : step s = .next t) (k : Fin 16) :
    t.stackAt k = s.stackAt k ∨ (Fetches s ∧ t.stackAt k = s.pc + 2) := by
  by_cases hsame : t.stackAt k = s.stackAt k
  · exact .inl hsame
  obtain ⟨i, u, hf, -, hx, hut, hfoot⟩ := step_changes (p := .stackEntry k) h (by simp [cycleParts]) hsame
  obtain ⟨⟨nnn, rfl⟩, hk⟩ := hfoot.stackEntry
  obtain ⟨u', hu', hentry, -⟩ := exec_call_pushes hk.symm nnn
  cases hu'.symm.trans hx
  exact .inr ⟨hf, Eq.trans hut hentry⟩

/-! ## The obligations -/

/-- Settles O45: a cycle that ends halted by `step_pc_of_halted`, an unknown word by the pre-increment, an instruction
by `exec_pc`. -/
theorem pcAtTheEndOfACycle : Obligations.PcAtTheEndOfACycle := by
  intro s t h
  refine ⟨step_pc_of_halted h, fun ht why hd => ?_, fun ht i hd => ?_⟩
  · rcases step_cases_of_running h ht with ⟨why', ⟨-, -, hle⟩, -, rfl⟩ | ⟨i, u, -, hd', -⟩
    · exact toNat_pc_add_two hle
    · simp [hd] at hd'
  · rcases step_cases_of_running h ht with ⟨why, -, hd', -⟩ | ⟨j, u, ⟨-, -, hle⟩, hd', hx, hu, rfl⟩
    · simp [hd] at hd'
    · cases hd.symm.trans hd'
      rw [State.countdown_pc, exec_pc hle hx hu]

/-- Settles O14: pc by the table of O45, whose values are bounded (`pcAfter_le`); a new stack entry is A + 2 for an
even A of at most 0xFFE (`step_stackAt`). -/
theorem stepKeepsPcBounded : Obligations.StepKeepsPcBounded := by
  intro s t hs h
  obtain ⟨hpc, hstack⟩ := hs
  refine ⟨?_, fun k => ?_⟩
  · cases ht : t.halted with
    | true => rwa [step_pc_of_halted h ht]
    | false =>
      rcases step_cases_of_running h ht with ⟨why, ⟨-, -, hle⟩, -, rfl⟩ | ⟨i, u, ⟨-, -, hle⟩, -, hx, hu, rfl⟩
      · exact (toNat_pc_add_two hle).trans_le (by omega)
      · rw [State.countdown_pc, exec_pc hle hx hu]
        exact pcAfter_le ⟨hpc, hstack⟩ hle i
  · rcases step_stackAt h k with hk | ⟨⟨-, heven, hle⟩, hk⟩
    · rw [hk]; exact hstack k
    · rw [hk, toNat_pc_add_two hle]; omega

end Sys2Proof.Machine
end

section
/-! PROOFS. STATUS and the records: what every transaction but RESET does to them (spec 10_state R40 to R45,
60_exceptions R222, R226). -/

namespace Sys2Proof.Machine

@[simp] theorem State.fetched_faultPc (s : State) : s.fetched.faultPc = s.faultPc := rfl
@[simp] theorem State.fetched_faultOp (s : State) : s.fetched.faultOp = s.faultOp := rfl

@[simp] theorem State.halted_refused (s : State) :
    State.halted { s with status := statusWithLoadErr s.status } = s.halted :=
  statusHalt_withLoadErr s.status

/-! ## The four ways a transaction can treat the records -/

/-- The records are as they were, and a halted engine's pc is too. -/
structure RecordsKept (s t : State) : Prop where
  status : t.status = s.status
  faultPc : t.faultPc = s.faultPc
  faultOp : t.faultOp = s.faultOp
  unkOp : t.unkOp = s.unkOp
  unkPc : t.unkPc = s.unkPc
  pc : s.halted = true → t.pc = s.pc

theorem RecordsKept.refl (s : State) : RecordsKept s s := ⟨rfl, rfl, rfl, rfl, rfl, fun _ => rfl⟩

theorem RecordsKept.of_keysWrite (s : State) (k16 : BitVec 16) : RecordsKept s (s.keysWrite k16) :=
  ⟨s.keysWrite_status k16, s.keysWrite_faultPc k16, s.keysWrite_faultOp k16, s.keysWrite_unkOp k16,
    s.keysWrite_unkPc k16, fun _ => s.keysWrite_pc k16⟩

theorem RecordsKept.of_frame {l : List Part} {s t : State} (h : UnchangedBut l s t)
    (hl : ∀ p ∈ [Part.status, .faultPc, .faultOp, .unkOp, .unkPc, .pc], p ∉ l) : RecordsKept s t where
  status := h .status (hl _ (by simp))
  faultPc := h .faultPc (hl _ (by simp))
  faultOp := h .faultOp (hl _ (by simp))
  unkOp := h .unkOp (hl _ (by simp))
  unkPc := h .unkPc (hl _ (by simp))
  pc _ := h .pc (hl _ (by simp))

/-- A cycle of a running engine whose instruction raises nothing keeps the records: STATUS and the fault records by
`exec_raises`, the other two because no instruction writes them. -/
theorem RecordsKept.of_exec {i : Instr} {s u : State} (hrun : Running s) (h : exec i s.fetched = .next u)
    (hu : u.halted = false) : RecordsKept s (s.endCycle u) := by
  rw [State.endCycle_of_running hu]
  rcases exec_raises h with ⟨c, -, rfl⟩ | ⟨-, hsame⟩
  · simp at hu
  · exact {
      status := hsame .status (by simp)
      faultPc := hsame .faultPc (by simp)
      faultOp := hsame .faultOp (by simp)
      unkOp := exec_footprint h .unkOp (by cases i <;> simp [Footprint, DrawPart])
      unkPc := exec_footprint h .unkPc (by cases i <;> simp [Footprint, DrawPart])
      pc := fun hs => by simp [hrun] at hs }

/-- What a cycle does to the records: nothing, a raise, or the report of an unknown word. -/
theorem step_records {s t : State} (h : step s = .next t) :
    RecordsKept s t ∨
    (Running s ∧ ∃ c op, fatalCause s = some (Cause.code c, op) ∧ t = s.raiseHalt c s.pc op) ∨
    (Fetches s ∧ (∃ why, decode (fetchedWord s) = .unknown why) ∧
      t = (s.fetched.reportUnknown (fetchedWord s) s.pc).countdown) := by
  cases hs : s.halted with
  | true =>
    cases (step_of_halted hs).symm.trans h
    exact .inl (.refl s)
  | false =>
    rcases step_raises hs h with hraise | ⟨-, ht⟩
    · exact .inr (.inl ⟨hs, hraise⟩)
    · rcases step_cases_of_running h ht with ⟨why, hf, hd, rfl⟩ | ⟨i, u, -, -, hx, hu, rfl⟩
      · exact .inr (.inr ⟨hf, ⟨why, hd⟩, rfl⟩)
      · have := RecordsKept.of_exec hs hx hu
        exact .inl (State.endCycle_of_running hu ▸ this)

/-- What a transaction other than RESET does to the records: nothing, one of the two events of a cycle, or the refusal
of a LOAD. -/
theorem transact_records {x : Transaction} {s t : State} (hx : x ≠ .reset) (h : transact x s = .next t) :
    RecordsKept s t ∨
    (x = .cycle ∧ Running s ∧ ∃ c op, fatalCause s = some (Cause.code c, op) ∧ t = s.raiseHalt c s.pc op) ∨
    (x = .cycle ∧ Fetches s ∧ (∃ why, decode (fetchedWord s) = .unknown why) ∧
      t = (s.fetched.reportUnknown (fetchedWord s) s.pc).countdown) ∨
    (∃ image, x = .load image ∧ 3584 < image.length ∧ t = { s with status := statusWithLoadErr s.status }) := by
  cases x with
  | reset => exact absurd rfl hx
  | cycle =>
    rcases step_records h with hkept | hraise | hreport
    · exact .inl hkept
    · exact .inr (.inl ⟨rfl, hraise⟩)
    · exact .inr (.inr (.inl ⟨rfl, hreport⟩))
  | load image =>
    cases h
    rcases Nat.lt_or_ge 3584 image.length with hlong | hfits
    · exact .inr (.inr (.inr ⟨image, rfl, hlong, s.load_of_too_long hlong⟩))
    · exact .inl (.of_frame (s.load_frame_of_fits hfits) (by simp))
  | keysWrite k16 => cases h; exact .inl (.of_keysWrite s k16)
  | videoRead | sound | stateRead => cases h; exact .inl (.refl s)

/-! ## The records stay legal (R40, R222) -/

theorem Cause.toNat_code_bounds (c : Cause) : c.code.toNat ≤ 5 ∧ c.code ≠ 0#3 := by
  cases c <;> decide

/-- An execute-stage condition has CAUSE 3, 4 or 5. -/
theorem executeCause_not_fetch {s : State} {i : Instr} {c : BitVec 3} (h : executeCause s i = some c) :
    ¬(c.toNat = 1 ∨ c.toNat = 2) := by
  unfold executeCause at h
  split at h
  · split at h <;> cases h; decide
  · split at h <;> cases h; decide
  · split at h <;> cases h; decide
  · split at h <;> cases h; decide
  · cases h

/-- Only a fetch condition has CAUSE 1 or 2, and it gives FAULT_OP the word 0. -/
theorem fatalCause_fetch_op {s : State} {c : BitVec 3} {op : Word} (h : fatalCause s = some (c, op))
    (hc : c.toNat = 1 ∨ c.toNat = 2) : op = 0 := by
  unfold fatalCause at h
  split at h
  · cases h; rfl
  split at h
  · cases h; rfl
  split at h
  · next i _ =>
    obtain ⟨c', hexec, hpair⟩ := Option.map_eq_some_iff.mp h
    cases hpair
    exact absurd hc (executeCause_not_fetch hexec)
  · cases h

/-- Every transaction but RESET keeps STATUS and the records legal. -/
theorem transact_keeps_recordsLegal {x : Transaction} {s t : State} (hx : x ≠ .reset) (hs : RecordsLegal s)
    (h : transact x s = .next t) : RecordsLegal t := by
  obtain ⟨hreserved, hle, hiff, hzero, hfetch, hpc⟩ := hs
  rcases transact_records hx h with hkept | ⟨-, -, c, op, hfatal, rfl⟩ | ⟨-, ⟨hrun, -⟩, -, rfl⟩ | ⟨image, -, -, rfl⟩
  · have hhalted : t.halted = s.halted := halted_of_same_status hkept.status
    simp only [RecordsLegal, hhalted, hkept.status, hkept.faultPc, hkept.faultOp]
    exact ⟨hreserved, hle, hiff, hzero, hfetch, fun hh => (hkept.pc hh).trans (hpc hh)⟩
  · obtain ⟨hcode, hne⟩ := c.toNat_code_bounds
    exact ⟨by simpa using hreserved, by simpa using hcode, by simpa using hne, by simp,
      by simpa using fatalCause_fetch_op hfatal, fun _ => rfl⟩
  · obtain ⟨hpc0, hop0⟩ := hzero hrun
    simp [RecordsLegal, hreserved, hrun, hiff.mpr hrun, hpc0, hop0]
  · simp only [RecordsLegal, State.halted_refused, statusReserved_withLoadErr, statusCause_withLoadErr]
    exact ⟨hreserved, hle, hiff, hzero, hfetch, hpc⟩

/-! ## The obligations -/

/-- Settles O13: the CYCLE among the transactions of `transact_keeps_recordsLegal`. -/
theorem stepKeepsRecordsLegal : Obligations.StepKeepsRecordsLegal := fun _ _ hs h =>
  transact_keeps_recordsLegal (x := .cycle) (by simp) hs h

/-- Settles O50: of the four cases of `transact_records` each writes only the fields of its own event. -/
theorem recordsAreStickyUntilReset : Obligations.RecordsAreStickyUntilReset := by
  intro x s t hx h
  rcases transact_records hx h with hkept | ⟨rfl, (hrun : s.halted = false), c, op, hfatal, rfl⟩ |
    ⟨rfl, ⟨hrun, heven, hle⟩, hwhy, rfl⟩ | ⟨image, rfl, hlong, rfl⟩
  · have hhalted : t.halted = s.halted := halted_of_same_status hkept.status
    simp [hhalted, hkept.status, hkept.faultPc, hkept.faultOp, hkept.unkOp, hkept.unkPc]
  · simp [Running, hrun, hfatal]
  · simp [Fetches, hrun, heven, hle, hwhy]
  · simp [hlong]

end Sys2Proof.Machine
end

section
/-! PROOFS. The canonical form of the memory list, and the invariants at RESET and over the host's transactions (spec
10_state R32, R46, R48, 20_memory). -/

namespace Sys2Proof.Machine

/-! ## A canonical list is determined by what it reads as -/

theorem Memory.read_of_not_listed (c : Config) {m : Memory} {a : Nat} (h : ∀ e ∈ m, e.1 ≠ a) :
    Memory.read c m a = Memory.unlisted c a := by
  induction m with
  | nil => rfl
  | cons e m ih =>
    obtain ⟨he, hm⟩ := List.forall_mem_cons.mp h
    simpa [Memory.read, he] using ih hm

theorem Memory.wf_of_cons {c : Config} {e : Host.Cell} {m : Memory} (h : Memory.wf c (e :: m)) : Memory.wf c m :=
  ⟨(List.pairwise_cons.mp h.1).2, fun d hd => h.2 d (List.mem_cons_of_mem _ hd)⟩

/-- In a canonical list the listed bytes are the ones read, since no address is listed twice. -/
theorem Memory.read_of_mem {c : Config} {m : Memory} (h : Memory.wf c m) {e : Host.Cell} (he : e ∈ m) :
    Memory.read c m e.1 = e.2 := by
  induction m with
  | nil => cases he
  | cons d m ih =>
    rcases List.mem_cons.mp he with rfl | hm
    · simp [Memory.read]
    · have hlt := (List.pairwise_cons.mp h.1).1 e hm
      simpa [Memory.read, hlt.ne] using ih (Memory.wf_of_cons h) hm

/-- The cells of a canonical list are the addresses inside memory that read as another byte than at reset. -/
theorem Memory.mem_iff_read {c : Config} {m : Memory} (h : Memory.wf c m) (e : Host.Cell) :
    e ∈ m ↔ e.1 < 4096 ∧ Memory.read c m e.1 = e.2 ∧ e.2 ≠ Memory.unlisted c e.1 := by
  refine ⟨fun he => ⟨(h.2 e he).1, Memory.read_of_mem h he, (h.2 e he).2⟩, fun ⟨_, hread, hne⟩ => ?_⟩
  by_cases hlisted : ∃ d ∈ m, d.1 = e.1
  · obtain ⟨d, hd, haddr⟩ := hlisted
    have hbyte : d.2 = e.2 := (Memory.read_of_mem h hd).symm.trans (haddr ▸ hread)
    exact Prod.ext haddr hbyte ▸ hd
  · have hreset := Memory.read_of_not_listed c fun d hd haddr => hlisted ⟨d, hd, haddr⟩
    exact absurd (hread.symm.trans hreset) hne

/-- Lists of cells with rising addresses that have the same cells are the same list. -/
theorem Memory.eq_of_mem_iff {m m' : Memory} (h : m.Pairwise fun p q => p.1 < q.1)
    (h' : m'.Pairwise fun p q => p.1 < q.1) (hmem : ∀ e, e ∈ m ↔ e ∈ m') : m = m' := by
  have : Std.Antisymm fun p q : Host.Cell => p.1 < q.1 := ⟨fun _ _ hpq hqp => absurd hqp hpq.asymm⟩
  have : Std.Irrefl fun p q : Host.Cell => p.1 < q.1 := ⟨fun p => Nat.lt_irrefl p.1⟩
  exact h.eq_of_mem_iff h' hmem

/-! ## Instructions keep the canonical form -/

theorem State.push_canonical {s t : State} {w : Word} (h : MemoryCanonical s) (hp : s.push w = some t) :
    MemoryCanonical t := by
  unfold State.push at hp
  split at hp <;> cases hp
  exact h

theorem State.pop_canonical {s t : State} {w : Word} (h : MemoryCanonical s) (hp : s.pop = some (w, t)) :
    MemoryCanonical t := by
  unfold State.pop at hp
  split at hp <;> cases hp
  exact h

theorem State.skipIf_canonical {s : State} (h : MemoryCanonical s) (b : Bool) : MemoryCanonical (s.skipIf b) := by
  cases b <;> exact h

theorem State.togglePixel_canonical {s : State} (h : MemoryCanonical s) (r : Fin 32) (c : Fin 64) :
    MemoryCanonical (s.togglePixel r c) := by
  unfold State.togglePixel
  split <;> exact h

theorem State.drawRow_canonical {s : State} (h : MemoryCanonical s) (px py b : Byte) (row : Nat) :
    MemoryCanonical (s.drawRow px py b row) :=
  foldl_keeps (P := MemoryCanonical)
    (fun t col ht => by
      split
      · exact State.togglePixel_canonical ht _ _
      · exact ht)
    _ _ h

theorem State.drawRows_canonical {s : State} (h : MemoryCanonical s) (px py : Byte) (n : Nat) :
    MemoryCanonical (s.drawRows px py n) :=
  foldl_keeps (P := MemoryCanonical) (fun _ _ ht => State.drawRow_canonical ht _ _ _ _) _ _ h

theorem State.storeV_canonical {s : State} (h : MemoryCanonical s) (n : Nat) : MemoryCanonical (s.storeV n) :=
  foldl_keeps (P := MemoryCanonical) (fun _ _ ht => State.writeByte_canonical ht _ _) _ _ h

theorem State.loadV_canonical {s : State} (h : MemoryCanonical s) (n : Nat) : MemoryCanonical (s.loadV n) :=
  foldl_keeps (P := MemoryCanonical) (f := fun t k => t.setV (BitVec.ofNat 4 k) (s.readByte (dataAddr s.i k)))
    (fun _ _ ht => ht) _ _ h

/-- Every instruction keeps the canonical form: those that write memory do so by `State.writeByte`, the others leave the
list as it is. -/
theorem exec_keeps_canonical {i : Instr} {s t : State} (hs : MemoryCanonical s) (h : exec i s = .next t) :
    MemoryCanonical t := by
  rcases exec_raises h with ⟨c, -, rfl⟩ | ⟨hnone, -⟩
  · exact hs
  cases i with
  | ret =>
    obtain ⟨k, hk⟩ := ret_entry_of_executeCause hnone
    obtain ⟨u, hpop, -⟩ := State.pop_of_sp_eq_succ hk
    cases (exec_ret_of_pop hpop).symm.trans h
    exact State.pop_canonical (t := u) hs hpop
  | call nnn =>
    obtain ⟨k, hk⟩ := call_room_of_executeCause hnone
    obtain ⟨u, hpush, -⟩ := State.push_of_sp_eq hk s.pc
    cases (exec_call_of_push hpush nnn).symm.trans h
    exact State.push_canonical (t := u) hs hpush
  | skp x =>
    cases (exec_skp_of_le (skp_le_of_executeCause hnone)).symm.trans h
    exact State.skipIf_canonical hs _
  | sknp x =>
    cases (exec_sknp_of_le (sknp_le_of_executeCause hnone)).symm.trans h
    exact State.skipIf_canonical hs _
  | seImm | sneImm | seReg | sneReg => cases h; exact State.skipIf_canonical hs _
  | ldVxK x =>
    cases hk : s.lowestKey with
    | none => cases (exec_ldVxK_of_no_key hk x).symm.trans h; exact hs
    | some k => cases (exec_ldVxK_of_lowestKey hk x).symm.trans h; exact hs
  | drw x y n => cases h; exact State.drawRows_canonical (s := s.setV vf 0) hs _ _ _
  | ldBVx x =>
    cases h
    exact State.writeByte_canonical (State.writeByte_canonical (State.writeByte_canonical hs _ _) _ _) _ _
  | storeRegs x => cases h; exact State.storeV_canonical hs _
  | loadRegs x => cases h; exact State.loadV_canonical hs _
  | _ => cases h; exact hs

theorem State.endCycle_canonical {s t : State} (h : MemoryCanonical t) : MemoryCanonical (s.endCycle t) := by
  unfold State.endCycle
  split <;> exact h

/-! ## The invariants over the host's transactions -/

theorem PcBounded.of_frame {l : List Part} {s t : State} (h : PcBounded s) (hf : UnchangedBut l s t)
    (hpc : Part.pc ∉ l) (hstack : ∀ k, Part.stackEntry k ∉ l) : PcBounded t := by
  have hpc' : t.pc = s.pc := hf .pc hpc
  have hstack' : ∀ k, t.stackAt k = s.stackAt k := fun k => hf (.stackEntry k) (hstack k)
  simpa only [PcBounded, hpc', hstack'] using h

theorem State.load_canonical {s : State} (h : MemoryCanonical s) (image : List Byte) :
    MemoryCanonical (s.load image) := by
  unfold State.load
  split
  · exact State.storeImage_canonical h _ _
  · exact h

theorem State.load_pcBounded {s : State} (h : PcBounded s) (image : List Byte) : PcBounded (s.load image) := by
  rcases Nat.lt_or_ge 3584 image.length with hlong | hfits
  · exact h.of_frame (s.load_frame_of_too_long hlong) (by simp) (by simp)
  · exact h.of_frame (s.load_frame_of_fits hfits) (by simp) (by simp)

theorem resetWith_recordsLegal (c : Config) : RecordsLegal (State.resetWith c) := by
  simp [RecordsLegal, State.resetWith, State.halted, statusReserved, statusCause, statusHalt]

theorem resetWith_pcBounded (c : Config) : PcBounded (State.resetWith c) := by
  simp [PcBounded, show (State.resetWith c).pc = 0x200 from rfl]

/-! ## The obligations -/

/-- Settles O17: both lists hold the same cells, by `Memory.mem_iff_read`, in the same order. -/
theorem canonicalMemoriesAgreeByReading : Obligations.CanonicalMemoriesAgreeByReading := by
  intro c m m' h h' hread
  refine Memory.eq_of_mem_iff h.1 h'.1 fun e => ?_
  rw [Memory.mem_iff_read h, Memory.mem_iff_read h']
  refine and_congr_right fun hlt => ?_
  have := hread (BitVec.ofNat 12 e.1)
  rw [BitVec.toNat_ofNat, Nat.mod_eq_of_lt hlt] at this
  rw [this]

/-- Settles O12: outside the instruction (`exec_keeps_canonical`) a cycle does not touch the list. -/
theorem stepKeepsMemoryCanonical : Obligations.StepKeepsMemoryCanonical := by
  intro s t hs h
  rcases step_cases h with ⟨-, rfl⟩ | ⟨-, -, rfl⟩ | ⟨-, -, -, rfl⟩ | ⟨-, -, rfl⟩ | ⟨i, u, -, -, hx, rfl⟩
  · exact hs
  · exact hs
  · exact hs
  · exact hs
  · exact State.endCycle_canonical (exec_keeps_canonical (s := s.fetched) hs hx)

/-- Settles O15: nothing is listed, STATUS and the records are 0, pc is 0x200 and the stack is 0. -/
theorem resetMeetsTheInvariants : Obligations.ResetMeetsTheInvariants := fun c =>
  ⟨Memory.wf_nil c, resetWith_recordsLegal c, resetWith_pcBounded c⟩

/-- Settles O16: RESET by `resetMeetsTheInvariants`, the records of the others by `transact_keeps_recordsLegal`; LOAD
writes bytes or STATUS, KEYS_WRITE the keys. -/
theorem hostTransactionsKeepTheInvariants : Obligations.HostTransactionsKeepTheInvariants := by
  intro x s t hx hmem hrecords hpc h
  cases x with
  | cycle => exact absurd rfl hx
  | reset => cases h; exact resetMeetsTheInvariants s.config
  | load image =>
    have hlegal := transact_keeps_recordsLegal (by simp) hrecords h
    cases h
    exact ⟨State.load_canonical hmem image, hlegal, State.load_pcBounded hpc image⟩
  | keysWrite k16 => cases h; exact ⟨hmem, hrecords, hpc⟩
  | videoRead | sound | stateRead => cases h; exact ⟨hmem, hrecords, hpc⟩

end Sys2Proof.Machine
end

section
/-! PROOFS. Noninterference: no instruction reads the opcode latch, the records or a stale stack entry (spec 10_state
R29, R36, R47). -/

namespace Sys2Proof.Machine

/-! ## States that agree but for hidden parts -/

/-- The parts that may differ: the latch, STATUS and the records where records holds, and the stack entries at index sp
and above where stale holds. -/
def Hidden (records stale : Prop) (sp : Nat) : Part → Prop
  | .opcode => records
  | .status => records
  | .faultPc => records
  | .faultOp => records
  | .unkOp => records
  | .unkPc => records
  | .stackEntry k => stale ∧ sp ≤ k.val
  | _ => False

/-- Two states that are both halted or both running and are the same but for hidden parts. -/
structure Agree (records stale : Prop) (s s' : State) : Prop where
  halted : s'.halted = s.halted
  same : SameOutside (Hidden records stale s.sp.val) s s'

theorem Part.Same.symm {p : Part} {s t : State} (h : p.Same s t) : p.Same t s := by
  cases p <;> exact Eq.symm h

namespace Agree

variable {records stale : Prop} {s s' t t' : State}

/-! What an instruction can read is never hidden. -/

theorem reg (h : Agree records stale s s') (x : Reg) : s'.getV x = s.getV x := h.same (.reg x) id
theorem index (h : Agree records stale s s') : s'.i = s.i := h.same .index id
theorem pc (h : Agree records stale s s') : s'.pc = s.pc := h.same .pc id
theorem sp (h : Agree records stale s s') : s'.sp = s.sp := h.same .sp id
theorem dt (h : Agree records stale s s') : s'.dt = s.dt := h.same .dt id
theorem st (h : Agree records stale s s') : s'.st = s.st := h.same .st id
theorem byte (h : Agree records stale s s') (a : Addr) : s'.readByte a = s.readByte a := h.same (.byte a) id
theorem pixel (h : Agree records stale s s') (r : Fin 32) (c : Fin 64) : s'.pixel r c = s.pixel r c :=
  h.same (.pixel r c) id
theorem key (h : Agree records stale s s') (k : BitVec 4) : s'.key k = s.key k := h.same (.key k) id
theorem config (h : Agree records stale s s') : s'.config = s.config := h.same .config id
theorem draws (h : Agree records stale s s') : s'.draws = s.draws := h.same .draws id

theorem stackAt (h : Agree records stale s s') {k : Fin 16} (hk : k.val < s.sp.val) : s'.stackAt k = s.stackAt k :=
  h.same (.stackEntry k) fun ⟨_, hle⟩ => absurd hk (Nat.not_lt.mpr hle)

theorem opcode (h : Agree records stale s s') (hr : ¬records) : s'.opcode = s.opcode := h.same .opcode hr
theorem status (h : Agree records stale s s') (hr : ¬records) : s'.status = s.status := h.same .status hr

theorem lowestKey (h : Agree records stale s s') : s'.lowestKey = s.lowestKey := by
  simp only [State.lowestKey, h.key]

theorem fetchedWord (h : Agree records stale s s') : fetchedWord s' = fetchedWord s := by
  simp only [Machine.fetchedWord, h.pc, h.byte]

theorem executeCause (h : Agree records stale s s') (i : Instr) : executeCause s' i = executeCause s i := by
  cases i <;> simp only [Machine.executeCause, h.sp, h.reg]

/-! ## The same update on both sides -/

/-- Two updates that each change only the listed parts keep the agreement when the listed parts end the same or hidden,
and no other part is hidden before and visible after. -/
theorem of_frames {l : List Part} (h : Agree records stale s s') (hf : UnchangedBut l s t) (hf' : UnchangedBut l s' t')
    (hhalted : t'.halted = t.halted)
    (hmono : ∀ p ∉ l, Hidden records stale s.sp.val p → Hidden records stale t.sp.val p)
    (hl : ∀ p ∈ l, ¬Hidden records stale t.sp.val p → p.Same t t') : Agree records stale t t' where
  halted := hhalted
  same p hp := by
    by_cases hmem : p ∈ l
    · exact hl p hmem hp
    · exact ((hf p hmem).symm.trans (h.same p fun hh => hp (hmono p hmem hh))).trans (hf' p hmem)

/-- The same for updates that write neither sp nor STATUS, so that nothing is hidden anew and HALT stays. -/
theorem update {l : List Part} (h : Agree records stale s s') (hf : UnchangedBut l s t) (hf' : UnchangedBut l s' t')
    (hsp : Part.sp ∉ l) (hstatus : Part.status ∉ l)
    (hl : ∀ p ∈ l, ¬Hidden records stale t.sp.val p → p.Same t t') : Agree records stale t t' := by
  have hsp' : t.sp = s.sp := hf .sp hsp
  refine h.of_frames hf hf' ?_ (fun p _ hp => hsp' ▸ hp) hl
  rw [halted_of_same_status (hf' .status hstatus), halted_of_same_status (hf .status hstatus), h.halted]

theorem setV (h : Agree records stale s s') (x : Reg) {b b' : Byte} (hb : b' = b) :
    Agree records stale (s.setV x b) (s'.setV x b') :=
  h.update (s.setV_frame x b) (s'.setV_frame x b') (by simp) (by simp) (by simp [Part.Same, hb])

theorem setFlagAndV (h : Agree records stale s s') (x : Reg) {f f' r r' : Byte} (hf : f' = f) (hr : r' = r) :
    Agree records stale (s.setFlagAndV x f r) (s'.setFlagAndV x f' r') :=
  (h.setV vf hf).setV x hr

theorem writeByte (h : Agree records stale s s') {a a' : Addr} {b b' : Byte} (ha : a' = a) (hb : b' = b) :
    Agree records stale (s.writeByte a b) (s'.writeByte a' b') := by
  subst ha
  exact h.update (s.writeByte_frame _ b) (s'.writeByte_frame _ b') (by simp) (by simp) (by simp [Part.Same, hb])

theorem setPixel (h : Agree records stale s s') (r : Fin 32) (c : Fin 64) (b : Bool) :
    Agree records stale (s.setPixel r c b) (s'.setPixel r c b) :=
  h.update (s.setPixel_frame r c b) (s'.setPixel_frame r c b) (by simp) (by simp)
    (by simp [Part.Same, State.pixel_setPixel])

theorem clearVideo (h : Agree records stale s s') : Agree records stale s.clearVideo s'.clearVideo where
  halted := h.halted
  same p hp := by
    cases p with
    | pixel r c => simp [Part.Same]
    | _ => exact h.same _ hp

theorem setPc (h : Agree records stale s s') {w w' : Word} (hw : w' = w) :
    Agree records stale (s.setPc w) (s'.setPc w') :=
  h.update (s.setPc_frame w) (s'.setPc_frame w') (by simp) (by simp) (by simp [Part.Same, hw])

theorem setI (h : Agree records stale s s') {w w' : Word} (hw : w' = w) :
    Agree records stale (s.setI w) (s'.setI w') :=
  h.update (s.setI_frame w) (s'.setI_frame w') (by simp) (by simp) (by simp [Part.Same, hw])

theorem setDt (h : Agree records stale s s') {b b' : Byte} (hb : b' = b) :
    Agree records stale (s.setDt b) (s'.setDt b') :=
  h.update (s.setDt_frame b) (s'.setDt_frame b') (by simp) (by simp) (by simp [Part.Same, hb])

theorem setSt (h : Agree records stale s s') {b b' : Byte} (hb : b' = b) :
    Agree records stale (s.setSt b) (s'.setSt b') :=
  h.update (s.setSt_frame b) (s'.setSt_frame b') (by simp) (by simp) (by simp [Part.Same, hb])

theorem nextDraw (h : Agree records stale s s') : Agree records stale s.nextDraw s'.nextDraw :=
  h.update s.nextDraw_frame s'.nextDraw_frame (by simp) (by simp) (by simp [Part.Same, h.draws])

theorem countdown (h : Agree records stale s s') : Agree records stale s.countdown s'.countdown :=
  h.update s.countdown_frame s'.countdown_frame (by simp) (by simp) (by simp [Part.Same, h.dt, h.st])

/-- The latch may differ only where it is hidden. -/
theorem setOpcode (h : Agree records stale s s') {w w' : Word} (hw : ¬records → w' = w) :
    Agree records stale (s.setOpcode w) (s'.setOpcode w') :=
  h.update (s.setOpcode_frame w) (s'.setOpcode_frame w') (by simp) (by simp) (by simpa [Part.Same, Hidden] using hw)

theorem skipIf (h : Agree records stale s s') {b b' : Bool} (hb : b' = b) :
    Agree records stale (s.skipIf b) (s'.skipIf b') :=
  h.update (s.skipIf_frame b) (s'.skipIf_frame b') (by simp) (by simp) (by simp [Part.Same, hb, h.pc])

/-- A raise writes STATUS and the fault records, which differ afterwards only where they are hidden. -/
theorem raiseHalt (h : Agree records stale s s') (c : Cause) {a a' op op' : Word} (ha : a' = a)
    (hop : ¬records → op' = op) : Agree records stale (s.raiseHalt c a op) (s'.raiseHalt c a' op') := by
  refine h.of_frames (s.raiseHalt_frame c a op) (s'.raiseHalt_frame c a' op') (by simp) (fun _ _ hp => hp) ?_
  simpa [Part.Same, Hidden, ha] using ⟨fun hr => by rw [h.status hr], hop⟩

theorem raiseInExec (h : Agree records stale s s') (c : Cause) :
    Agree records stale (s.raiseInExec c) (s'.raiseInExec c) :=
  h.raiseHalt c (by rw [h.pc]) h.opcode

theorem reportUnknown (h : Agree records stale s s') (op a : Word) :
    Agree records stale (s.reportUnknown op a) (s'.reportUnknown op a) := by
  refine h.of_frames (s.reportUnknown_frame op a) (s'.reportUnknown_frame op a) (by simpa using h.halted)
    (fun _ _ hp => hp) ?_
  simpa [Part.Same, Hidden] using fun hr => by rw [h.status hr]

/-! ## Drawing, storing and loading -/

theorem togglePixel (h : Agree records stale s s') (r : Fin 32) (c : Fin 64) :
    Agree records stale (s.togglePixel r c) (s'.togglePixel r c) := by
  rw [State.togglePixel, State.togglePixel, h.pixel]
  split
  · exact (h.setV vf rfl).setPixel r c _
  · exact h.setPixel r c _

theorem drawRow (h : Agree records stale s s') (px py b : Byte) (row : Nat) :
    Agree records stale (s.drawRow px py b row) (s'.drawRow px py b row) :=
  List.foldl_rel h fun col _ t t' ht => by
    split
    · exact ht.togglePixel _ _
    · exact ht

theorem drawRows (h : Agree records stale s s') (px py : Byte) (n : Nat) :
    Agree records stale (s.drawRows px py n) (s'.drawRows px py n) :=
  List.foldl_rel h fun row _ t t' ht => by
    rw [ht.index, ht.byte]
    exact ht.drawRow px py _ row

theorem storeV (h : Agree records stale s s') (n : Nat) : Agree records stale (s.storeV n) (s'.storeV n) :=
  List.foldl_rel h fun k _ t t' ht => ht.writeByte (by rw [h.index]) (h.reg _)

theorem loadV (h : Agree records stale s s') (n : Nat) : Agree records stale (s.loadV n) (s'.loadV n) :=
  List.foldl_rel h fun k _ t t' ht => ht.setV _ (by rw [h.index, h.byte])

/-! ## The stack -/

/-- RET reads the entry below sp, which is not stale, and hides one entry more. -/
theorem exec_ret (h : Agree records stale s s') {k : Fin 16} (hk : s.sp.val = k.val + 1)
    (hx : exec .ret s = .next t) (hx' : exec .ret s' = .next t') : Agree records stale t t' := by
  obtain ⟨u, hu, hpc, hsp, hf⟩ := exec_ret_pops hk
  obtain ⟨u', hu', hpc', hsp', hf'⟩ := exec_ret_pops ((congrArg Fin.val h.sp).trans hk)
  cases hu.symm.trans hx
  cases hu'.symm.trans hx'
  refine h.of_frames hf hf' ?_ (fun p _ hp => ?_) ?_
  · rw [halted_of_same_status (hf' .status (by simp)), halted_of_same_status (hf .status (by simp)), h.halted]
  · cases p with
    | stackEntry j => exact ⟨hp.1, by have := hp.2; omega⟩
    | _ => exact hp
  · have hentry := h.stackAt (k := k) (by omega)
    simp [Part.Same, hpc, hpc', hentry, Fin.ext_iff, hsp, hsp']

/-- CALL writes the same return address on both sides to the entry at sp, which is no longer stale. -/
theorem exec_call (h : Agree records stale s s') {nnn : BitVec 12} {k : Fin 16} (hk : s.sp.val = k.val)
    (hx : exec (.call nnn) s = .next t) (hx' : exec (.call nnn) s' = .next t') : Agree records stale t t' := by
  obtain ⟨u, hu, hentry, hsp, hpc, hf⟩ := exec_call_pushes hk nnn
  obtain ⟨u', hu', hentry', hsp', hpc', hf'⟩ := exec_call_pushes ((congrArg Fin.val h.sp).trans hk) nnn
  cases hu.symm.trans hx
  cases hu'.symm.trans hx'
  refine h.of_frames hf hf' ?_ (fun p hout hp => ?_) ?_
  · rw [halted_of_same_status (hf' .status (by simp)), halted_of_same_status (hf .status (by simp)), h.halted]
  · cases p with
    | stackEntry j =>
      have hne : j.val ≠ k.val := fun hj => hout (by simp [Fin.ext hj])
      exact ⟨hp.1, by have := hp.2; omega⟩
    | _ => exact hp
  · simp [Part.Same, BitVec.toNat_eq, hpc, hpc', hentry, hentry', h.pc, Fin.ext_iff, hsp, hsp']

/-! ## Instructions -/

theorem skipTaken (h : Agree records stale s s') (i : Instr) : skipTaken s' i = skipTaken s i := by
  cases i <;> simp only [Machine.skipTaken, h.reg, h.key]

end Agree

theorem Cause.eq_of_code_eq {c c' : Cause} (h : c.code = c'.code) : c = c' := by
  cases c <;> cases c' <;> simp [Cause.code] at h ⊢

/-- Every instruction reads only parts that are not hidden. -/
theorem exec_agree {records stale : Prop} {i : Instr} {s s' t t' : State} (h : Agree records stale s s')
    (hx : exec i s = .next t) (hx' : exec i s' = .next t') : Agree records stale t t' := by
  have hcause := h.executeCause i
  rcases exec_raises hx with ⟨c, hc, rfl⟩ | ⟨hnone, -⟩
  · rcases exec_raises hx' with ⟨c', hc', rfl⟩ | ⟨hnone', -⟩
    · obtain rfl : c = c' := Cause.eq_of_code_eq (Option.some.inj (hc.symm.trans (hcause.symm.trans hc')))
      exact h.raiseInExec c
    · simp [hcause, hc] at hnone'
  have hnone' : executeCause s' i = none := hcause.trans hnone
  cases i with
  | ret =>
    obtain ⟨k, hk⟩ := ret_entry_of_executeCause hnone
    exact h.exec_ret hk hx hx'
  | call nnn =>
    obtain ⟨k, hk⟩ := call_room_of_executeCause hnone
    exact h.exec_call hk hx hx'
  | skp x =>
    cases (exec_skp_of_le (skp_le_of_executeCause hnone)).symm.trans hx
    cases (exec_skp_of_le (skp_le_of_executeCause hnone')).symm.trans hx'
    exact h.skipIf (h.skipTaken _)
  | sknp x =>
    cases (exec_sknp_of_le (sknp_le_of_executeCause hnone)).symm.trans hx
    cases (exec_sknp_of_le (sknp_le_of_executeCause hnone')).symm.trans hx'
    exact h.skipIf (h.skipTaken _)
  | seImm | sneImm | seReg | sneReg => cases hx; cases hx'; exact h.skipIf (by simp only [h.reg])
  | ldVxK x =>
    cases hk : s.lowestKey with
    | none =>
      cases (exec_ldVxK_of_no_key hk x).symm.trans hx
      cases (exec_ldVxK_of_no_key (h.lowestKey.trans hk) x).symm.trans hx'
      exact h.setPc (by rw [h.pc])
    | some k =>
      cases (exec_ldVxK_of_lowestKey hk x).symm.trans hx
      cases (exec_ldVxK_of_lowestKey (h.lowestKey.trans hk) x).symm.trans hx'
      exact h.setV x rfl
  | cls => cases hx; cases hx'; exact h.clearVideo
  | jp nnn => cases hx; cases hx'; exact h.setPc rfl
  | jpV0 nnn => cases hx; cases hx'; exact h.setPc (by rw [h.reg])
  | ldImm x kk => cases hx; cases hx'; exact h.setV x rfl
  | addImm x kk => cases hx; cases hx'; exact h.setV x (by rw [h.reg])
  | ldReg x y | orReg x y | andReg x y | xorReg x y => cases hx; cases hx'; exact h.setV x (by simp only [h.reg])
  | addReg x y | subReg x y | shr x y | subn x y | shl x y =>
    cases hx; cases hx'; exact h.setFlagAndV x (by simp only [h.reg]) (by simp only [h.reg])
  | rnd x kk => cases hx; cases hx'; exact (h.setV x (by rw [h.draws])).nextDraw
  | ldI nnn => cases hx; cases hx'; exact h.setI rfl
  | addIVx x => cases hx; cases hx'; exact h.setI (by rw [h.index, h.reg])
  | ldFVx x => cases hx; cases hx'; exact h.setI (by rw [h.config, h.reg])
  | drw x y n =>
    cases hx; cases hx'
    rw [h.reg, h.reg]
    exact (h.setV vf rfl).drawRows _ _ _
  | ldVxDt x => cases hx; cases hx'; exact h.setV x h.dt
  | ldDtVx x => cases hx; cases hx'; exact h.setDt (h.reg x)
  | ldStVx x => cases hx; cases hx'; exact h.setSt (h.reg x)
  | ldBVx x =>
    cases hx; cases hx'
    rw [h.index, h.reg]
    exact ((h.writeByte rfl rfl).writeByte rfl rfl).writeByte rfl rfl
  | storeRegs x => cases hx; cases hx'; exact h.storeV _
  | loadRegs x => cases hx; cases hx'; exact h.loadV _

/-! ## Cycles -/

theorem Agree.fetched {records stale : Prop} {s s' : State} (h : Agree records stale s s') :
    Agree records stale s.fetched s'.fetched := by
  have hword : s'.fetch16 s'.pc = s.fetch16 s.pc := by
    rw [fetch16_eq_fetchedWord, fetch16_eq_fetchedWord, h.fetchedWord]
  exact (h.setOpcode fun _ => hword).setPc (by rw [h.pc])

theorem Agree.endCycle {records stale : Prop} {s s' u u' : State} (h : Agree records stale s s')
    (hu : Agree records stale u u') : Agree records stale (s.endCycle u) (s'.endCycle u') := by
  unfold State.endCycle
  rw [hu.halted]
  split
  · exact hu.setOpcode h.opcode
  · exact hu.countdown

/-- Cycles that begin in agreeing states go the same way and end in agreeing states. -/
theorem step_agree {records stale : Prop} {s s' t t' : State} (h : Agree records stale s s') (ht : step s = .next t)
    (ht' : step s' = .next t') : Agree records stale t t' := by
  rcases step_cases ht with ⟨hh, rfl⟩ | ⟨hrun, hodd, rfl⟩ | ⟨hrun, heven, hhigh, rfl⟩ |
    ⟨⟨hrun, heven, hle⟩, ⟨why, hd⟩, rfl⟩ | ⟨i, u, ⟨hrun, heven, hle⟩, hd, hx, rfl⟩
  · cases (step_of_halted (h.halted.trans hh)).symm.trans ht'
    exact h
  · cases (step_of_misaligned (h.halted.trans hrun) (h.pc ▸ hodd)).symm.trans ht'
    exact h.raiseHalt _ h.pc fun _ => rfl
  · cases (step_of_range (h.halted.trans hrun) (h.pc ▸ heven) (h.pc ▸ hhigh)).symm.trans ht'
    exact h.raiseHalt _ h.pc fun _ => rfl
  · rw [fetch16_eq_fetchedWord] at hd ⊢
    have hf' : Fetches s' := ⟨h.halted.trans hrun, h.pc ▸ heven, h.pc ▸ hle⟩
    cases (step_of_unknown hf' (h.fetchedWord ▸ hd)).symm.trans ht'
    rw [h.fetchedWord, h.pc]
    exact (h.fetched.reportUnknown _ _).countdown
  · rw [fetch16_eq_fetchedWord] at hd
    have hf' : Fetches s' := ⟨h.halted.trans hrun, h.pc ▸ heven, h.pc ▸ hle⟩
    obtain ⟨u', hx'⟩ := exec_answers i s'.fetched
    cases (step_of_inst hf' (h.fetchedWord ▸ hd) hx').symm.trans ht'
    exact h.endCycle (exec_agree h.fetched hx hx')

/-! ## The obligations -/

theorem sameForPrograms_iff {s s' : State} : SameForPrograms s s' ↔ Agree True False s s' := by
  have hparts : ∀ p, p ∉ [Part.opcode, .status, .faultPc, .faultOp, .unkOp, .unkPc] ↔
      ¬Hidden True False s.sp.val p := fun p => by cases p <;> simp [Hidden]
  simp only [SameForPrograms, UnchangedBut, hparts]
  exact ⟨fun ⟨hh, hs⟩ => ⟨hh, hs⟩, fun ⟨hh, hs⟩ => ⟨hh, hs⟩⟩

theorem sameButStaleStack_iff {s s' : State} : SameButStaleStack s s' ↔ Agree False True s s' := by
  have hparts : ∀ p, (∀ k, p = Part.stackEntry k → k.val < s.sp.val) ↔ ¬Hidden False True s.sp.val p := fun p => by
    cases p <;> simp [Hidden]
  simp only [SameButStaleStack, hparts]
  exact ⟨fun hs => ⟨halted_of_same_status (hs .status id), hs⟩, fun ⟨_, hs⟩ => hs⟩

/-- Settles O48: `step_agree` with the latch and the records hidden. -/
theorem latchAndRecordsAreInvisible : Obligations.LatchAndRecordsAreInvisible := fun _ _ _ _ hs ht ht' =>
  sameForPrograms_iff.mpr (step_agree (sameForPrograms_iff.mp hs) ht ht')

/-- Settles O49: `step_agree` with the stale stack entries hidden. -/
theorem staleStackEntriesAreInvisible : Obligations.StaleStackEntriesAreInvisible := fun _ _ _ _ hs ht ht' =>
  sameButStaleStack_iff.mpr (step_agree (sameButStaleStack_iff.mp hs) ht ht')

end Sys2Proof.Machine
end

section
/-! PROOFS. Pairs of instructions, the font, the random byte and the derived rules on addresses and pixels (spec
41_control_flow, 43_alu, 44_index_memory, 20_memory, 45_display). -/

namespace Sys2Proof.Machine

/-! ## A stored word and the fetch (R64, R74) -/

/-- The two addresses a fetch reads are 12 bits of pc and the next one, which differ. -/
theorem fetch_addresses_ne (a : Nat) : BitVec.ofNat 12 a ≠ BitVec.ofNat 12 (a + 1) := by
  rw [ne_eq, ← BitVec.toNat_inj, BitVec.toNat_ofNat, BitVec.toNat_ofNat]
  omega

/-- A fetch at a data address reads that byte and the byte at the next data address. -/
theorem fetchedWord_at_dataAddr (t : State) (i : Word) (k : Nat) :
    fetchedWord { t with pc := (dataAddr i k).setWidth 16 } =
      t.readByte (dataAddr i k) ++ t.readByte (dataAddr i (k + 1)) := by
  have hpc : ((dataAddr i k).setWidth 16).toNat = (dataAddr i k).toNat := BitVec.toNat_setWidth_of_le (by decide)
  have hnext : BitVec.ofNat 12 ((dataAddr i k).toNat + 1) = dataAddr i (k + 1) :=
    BitVec.eq_of_toNat_eq (by rw [BitVec.toNat_ofNat, toNat_dataAddr, toNat_dataAddr]; omega)
  simp only [fetchedWord, hpc, hnext, BitVec.ofNat_toNat, BitVec.setWidth_eq]
  rfl

/-- The word stored at pc is the word a fetch there reads. -/
theorem fetchedWord_storeWord (s : State) (w : Word) : fetchedWord (s.storeWord s.pc w) = w := by
  have hhi : s.pc.setWidth 12 = BitVec.ofNat 12 s.pc.toNat := BitVec.eq_of_toNat_eq (by simp)
  have hlo : (s.pc + 1).setWidth 12 = BitVec.ofNat 12 (s.pc.toNat + 1) := BitVec.eq_of_toNat_eq (by simp)
  rw [State.storeWord, hhi, hlo, fetchedWord, State.writeByte_pc, State.writeByte_pc, State.readByte_writeByte_self,
    State.readByte_writeByte_of_ne _ _ (fetch_addresses_ne _), State.readByte_writeByte_self]
  exact wordOfBytes_high_low w

/-! ## The glyphs of the font (R183, R33) -/

/-- After RESET the byte at offset j of the glyph of the digit d is byte 5 * d + j of the font. -/
theorem State.readByte_glyph (c : Config) {d : Byte} (hd : d.toNat ≤ 0xF) {j : Nat} (hj : j < 5) :
    c.fontRom[5 * d.toNat + j]? = some ((State.resetWith c).readByte (dataAddr (glyphAddr c d) j)) := by
  have hfont : 5 * d.toNat + j < 80 := by omega
  have haddr : dataAddr (glyphAddr c d) j = BitVec.ofNat 12 (c.fontBase.val + (⟨_, hfont⟩ : Fin 80).val) :=
    BitVec.eq_of_toNat_eq (by
      rw [toNat_dataAddr, toNat_glyphAddr, BitVec.toNat_ofNat]
      simp only [Nat.add_assoc])
  rw [haddr, State.readByte_resetWith_font, Vector.get_eq_getElem]
  exact Vector.getElem?_eq_getElem hfont

/-! ## Two equal draws (R197) -/

/-- A sprite covers the same pixels of two states that have the same I and the same bytes. -/
theorem spriteCovers_congr {s t : State} (hi : t.i = s.i) (hbytes : ∀ a, t.readByte a = s.readByte a) {px py : Byte}
    {n : Nat} {r : Fin 32} {c : Fin 64} : SpriteCovers t px py n r c ↔ SpriteCovers s px py n r c := by
  simp only [SpriteCovers, hi, hbytes]

/-- A register other than VF is not changed by DRW. -/
theorem exec_drw_getV {s t : State} {x y z : Reg} {n : BitVec 4} (h : exec (.drw x y n) s = .next t) (hz : z ≠ vf) :
    t.getV z = s.getV z :=
  exec_footprint h (.reg z) (by simpa [Footprint, DrawPart] using hz)

/-- The pixels of C drawn in two states one after the other: the first drawing turned a pixel on exactly where the
second finds one of them lit. -/
theorem Drawn.turned_on_iff {C : Fin 32 → Fin 64 → Prop} {s t : State} (h : Drawn C s t) :
    (∃ r c, s.pixel r c = false ∧ t.pixel r c = true) ↔ ∃ r c, C r c ∧ t.pixel r c = true := by
  refine exists₂_congr fun r c => and_congr_left fun ht => ?_
  by_cases hC : C r c
  · have htoggled := h.toggled r c hC
    simpa [hC, ht] using htoggled
  · simpa [hC, ht] using (h.kept r c hC).symm

/-- VF after a drawing that began with VF 0 says whether one of its pixels was lit. -/
theorem Drawn.flag_eq_one_iff {C : Fin 32 → Fin 64 → Prop} {s t : State} (h : Drawn C s t) (hs : s.getV vf = 0) :
    t.getV vf = 1 ↔ ∃ r c, C r c ∧ s.pixel r c = true := by
  refine ⟨fun hone => ?_, h.flag_set⟩
  by_contra hno
  have hzero := h.flag_kept fun r c hC => Bool.eq_false_of_not_eq_true fun hlit => hno ⟨r, c, hC, hlit⟩
  rw [hs, hone] at hzero
  cases hzero

/-- Drawing the same pixels twice leaves the screen as it was. -/
theorem Drawn.pixel_twice {C : Fin 32 → Fin 64 → Prop} {s t t' u : State} (h : Drawn C s t) (h' : Drawn C t' u)
    (ht : ∀ r c, t'.pixel r c = t.pixel r c) (r : Fin 32) (c : Fin 64) : u.pixel r c = s.pixel r c := by
  by_cases hC : C r c
  · rw [h'.toggled r c hC, ht, h.toggled r c hC, Bool.not_not]
  · rw [h'.kept r c hC, ht, h.kept r c hC]

/-! ## The obligations -/

/-- Settles O21: the entry that CALL pushes (`exec_call_pushes`) is the one that RET pops (`exec_ret_pops`). -/
theorem callThenReturn : Obligations.CallThenReturn := by
  intro s nnn k hk
  obtain ⟨t, ht, hentry, hsp, -, hf⟩ := exec_call_pushes hk nnn
  obtain ⟨u, hu, hpc, hsp', hf'⟩ := exec_ret_pops hsp
  have hpc' : u.pc = s.pc := hpc.trans hentry
  have hsame : u.sp = s.sp := Fin.ext (hsp'.trans hk.symm)
  exact ⟨t, u, ht, hu, hpc', hsame, ((hf.trans (hf'.mono (by simp))).of_cons hpc').of_cons hsame⟩

/-- Settles O29: one write of V[x], whose bits are those of the conjunction, and one draw. -/
theorem randomByteIsMasked : Obligations.RandomByteIsMasked := fun s x kk =>
  ⟨encodedBy_row (.rnd x kk), _, rfl, rfl,
    ((s.setV_frame x _).mono (by simp)).trans ((State.nextDraw_frame _).mono (by simp)), fun k =>
    (congrArg (·.getLsbD k) (s.getV_setV_self x _)).trans BitVec.getLsbD_and⟩

/-- Settles O31: the glyph address by `toNat_glyphAddr`, the bytes there by `State.readByte_resetWith_font`. -/
theorem fontGlyphsStandAtTheirAddress : Obligations.FontGlyphsStandAtTheirAddress := by
  intro c x d hd
  refine ⟨_, rfl, fun j hj => ?_⟩
  rw [State.getV_setV_self]
  exact State.readByte_glyph c hd hj

/-- Settles O32: `toNat_dataAddr` and `dataAddr_inj`. -/
theorem dataAddressesAreDistinct : Obligations.DataAddressesAreDistinct := fun i k _ hk hk' =>
  ⟨toNat_dataAddr i k, (dataAddr_inj (by omega) (by omega)).mp⟩

/-- Settles O36: the stored registers by O34 (`storeRegistersToMemory`), at the addresses that
`fetchedWord_at_dataAddr` says the fetch reads; the word of withFetchWord by `fetchedWord_storeWord`. -/
theorem storedWordIsFetched : Obligations.StoredWordIsFetched := by
  refine ⟨fun s t x k k' h hnext hle _ => ?_, fun s w => ?_⟩
  · obtain ⟨u, hu, hstored, -⟩ := (storeRegistersToMemory s x).2
    cases hu.symm.trans h
    rw [fetchedWord_at_dataAddr, ← hnext, hstored k (by omega), hstored k' hle]
  · have hword : BitVec.ofNat 16 (w.toNat % 2 ^ 16) = w := by
      rw [Nat.mod_eq_of_lt w.isLt, BitVec.ofNat_toNat, BitVec.setWidth_eq]
    rw [State.withFetchWord, hword, fetchedWord_storeWord]

/-- Settles O39: no row is drawn, so that only VF is written. -/
theorem drawWithNoRows : Obligations.DrawWithNoRows := fun s _ _ =>
  ⟨s.setV vf 0, rfl, s.getV_setV_self vf 0, s.setV_frame vf 0⟩

/-- Settles O40: `pixelRow_inj` and `pixelColumn_inj`. -/
theorem spriteBitsHitDistinctPixels : Obligations.SpriteBitsHitDistinctPixels :=
  fun _ _ _ _ _ _ hrow hrow' hcol hcol' hr hc =>
    ⟨pixelRow_inj (by omega) (by omega) hr, pixelColumn_inj hcol hcol' hc⟩

/-- Settles O41: both draws cover the same pixels, so the second toggles back what the first toggled
(`Drawn.pixel_twice`), and its VF says whether it found one of them lit (`Drawn.flag_eq_one_iff`). -/
theorem drawTwiceRestoresTheScreen : Obligations.DrawTwiceRestoresTheScreen := by
  intro s x y n hx hy
  obtain ⟨t, ht, hdrawn⟩ := exec_drw_drawn s x y n
  obtain ⟨u, hu, hdrawn'⟩ := exec_drw_drawn t x y n
  have hcovers : SpriteCovers t (t.getV x) (t.getV y) n.toNat = SpriteCovers s (s.getV x) (s.getV y) n.toNat := by
    rw [exec_drw_getV ht hx, exec_drw_getV ht hy]
    exact funext₂ fun r c => propext (spriteCovers_congr hdrawn.index hdrawn.bytes)
  rw [hcovers] at hdrawn'
  refine ⟨t, u, ht, hu, hdrawn.pixel_twice hdrawn' fun _ _ => rfl, ?_⟩
  exact (hdrawn'.flag_eq_one_iff (t.getV_setV_self vf 0)).trans hdrawn.turned_on_iff.symm

end Sys2Proof.Machine
end
